-- ==== Sys2Proof/Word.lean ====
section
/-! DEFINITION. The word types of the core: bytes, 32-bit words, register numbers and condition codes
(R10, R11, R13, R50). -/

namespace Sys2Proof

/-- A byte of the stream or of data memory (R22). -/
abbrev Byte := BitVec 8

/-- An instruction word, a register value or a memory word: 32 bits (R11, R13, R49). -/
abbrev Word := BitVec 32

/-- A register number: a 4-bit field, so that every field value names a register (R13). -/
abbrev RegNum := BitVec 4

/-- A condition code: bits 31 to 28 of every word (R50). -/
abbrev Cond := BitVec 4

/-- Condition EQ (R50). -/
abbrev Cond.eq : Cond := 0b0000#4

/-- Condition NE (R50). -/
abbrev Cond.ne : Cond := 0b0001#4

end Sys2Proof
end

