-- ==== Sys2Proof/Machine/Bits.lean ====
section
/-! DEFINITION. Bit-field, rotation and byte-order helpers of the decoder and the executor (R10, R11, R30, R36,
R37, R57). -/

namespace Sys2Proof.Machine

/-- `ror32(v, n)` for 0 <= n <= 31: `v` if n = 0, else (v >> n) OR (v << (32 - n)), kept to 32 bits (R11). -/
def ror32 (v : Word) (n : Nat) : Word :=
  if n = 0 then v else (v >>> n) ||| (v <<< (32 - n))

/-- The resolved rotate-immediate: the zero-extended byte rotated right by twice `rotate` (R57). -/
def rotateImmediate (rotate : BitVec 4) (imm8 : BitVec 8) : Word :=
  ror32 (imm8.setWidth 32) (2 * rotate.toNat)

/-- The byte that gives `value` under the rotation `rotate`, if there is one. -/
def immediateByte? (value : Word) (rotate : BitVec 4) : Option (BitVec 4 × BitVec 8) :=
  let imm8 : BitVec 8 := (ror32 value ((32 - 2 * rotate.toNat) % 32)).setWidth 8
  if rotateImmediate rotate imm8 = value then some (rotate, imm8) else none

/-- The rotations in the order in which an encoder tries them. -/
def rotations : List (BitVec 4) :=
  [0#4, 1#4, 2#4, 3#4, 4#4, 5#4, 6#4, 7#4, 8#4, 9#4, 10#4, 11#4, 12#4, 13#4, 14#4, 15#4]

/-- The fields (rotate, imm8) with the least rotation that resolve to `value`; none if no word's immediate
resolves to it (R57; the choice among several encodings is log entry 17). -/
def immediateFields? (value : Word) : Option (BitVec 4 × BitVec 8) :=
  rotations.findSome? (immediateByte? value)

/-- A word from its four bytes, most significant byte first: the order of the instruction stream (R30, R32). -/
def wordOfBigEndian (b0 b1 b2 b3 : Byte) : Word :=
  b0 ++ b1 ++ b2 ++ b3

/-- The four bytes of a word, most significant first (R30). -/
def bigEndianBytes (w : Word) : List Byte :=
  [w.extractLsb' 24 8, w.extractLsb' 16 8, w.extractLsb' 8 8, w.extractLsb' 0 8]

/-- A word from its four bytes, least significant byte first: the order of data memory (R29, R36). -/
def wordOfLittleEndian (b0 b1 b2 b3 : Byte) : Word :=
  b3 ++ b2 ++ b1 ++ b0

/-- Byte `k` (0 to 3) of a word, byte 0 the least significant (R29, R37). -/
def littleEndianByte (w : Word) (k : Nat) : Byte :=
  w.extractLsb' (8 * k) 8

end Sys2Proof.Machine
end

