-- ==== Sys2Proof/Syntax/Operand.lean ====
section
/-! DEFINITION. What an instruction's operand set is made of: the 20 kinds, the four shift types, the shift
amount and operand 2 (R52, R59, R70, R78). -/

namespace Sys2Proof

/-- The decoder's output kind: exactly 20 values (R52). -/
inductive Kind where
  | mov | add | sub | addeq | subne | cmp | and | orr | mul | ldr | str | b | bl
  | lsl | lsr | asr | ror | unknown | unknownDpImm | unknownDpReg
  deriving DecidableEq, Repr

/-- The seven instruction formats (R53 to R68, R75). -/
inductive Format where
  | mul | dpi | dpr | dprs | ls | br | unk
  deriving DecidableEq, Repr

/-- The shift type of a register operand, bits 6 to 5 (R59). -/
inductive ShiftType where
  | lsl | lsr | asr | ror
  deriving DecidableEq, Repr

/-- The shift descriptor of a register operand: exactly one of the three applies (R78).
`none` is the "no shift" case that the resolver defines and the decoder never produces (R86, C8);
a well-formed instruction does not hold it. -/
inductive ShiftAmount where
  /-- `shift_amount`, the 5-bit immediate of form DPR (R60). -/
  | imm (n : BitVec 5)
  /-- `rs`, the register of form DPRS, read when the instruction executes (R61). -/
  | reg (rs : RegNum)
  /-- No shift descriptor (the resolver's "else 0"). -/
  | none
  deriving DecidableEq, Repr

/-- Operand 2 as the record holds it (R70, R85): the immediate resolved at decode time (form DPI), or a
register with a shift (forms DPR and DPRS). -/
inductive Operand2 where
  | imm (value : Word)
  | reg (rm : RegNum) (ty : ShiftType) (amount : ShiftAmount)
  deriving DecidableEq, Repr

end Sys2Proof
end

