-- ==== Sys2Proof/Syntax.lean ====
section
/-! DEFINITION. The instructions: one constructor per kind of the decoder's output (R52), which is one per
mnemonic of spec/opcode_table.json; a kind's forms (the table's rows) are its operand 2's shapes.
A constructor holds the record's operand fields of its kind (R70). A field that the kind fixes is not repeated:
`cond` of ADDEQ and SUBNE, `rn` of the shift kinds, `shift_type` of the shift kinds, `set_flags` of CMP and of
the kinds that have no S-bit. `raw_word` stands beside the instruction in `Record`. -/

namespace Sys2Proof

/-- An instruction (R52, R70). -/
inductive Instr where
  /-- MUL (R53, R112). -/
  | mul (cond : Cond) (setFlags : Bool) (rd rs rm : RegNum)
  /-- ADDEQ: an ADD word whose condition is EQ (R64, R102). -/
  | addeq (setFlags : Bool) (rn rd : RegNum) (op2 : Operand2)
  /-- SUBNE: a SUB word whose condition is NE (R64, R104). -/
  | subne (setFlags : Bool) (rn rd : RegNum) (op2 : Operand2)
  /-- LSL: a register-form MOV word with rn = 0 (R62, R108). -/
  | lsl (cond : Cond) (setFlags : Bool) (rd rm : RegNum) (amount : ShiftAmount)
  /-- LSR (R62, R109). -/
  | lsr (cond : Cond) (setFlags : Bool) (rd rm : RegNum) (amount : ShiftAmount)
  /-- ASR (R62, R110). -/
  | asr (cond : Cond) (setFlags : Bool) (rd rm : RegNum) (amount : ShiftAmount)
  /-- ROR (R62, R63, R111). -/
  | ror (cond : Cond) (setFlags : Bool) (rd rm : RegNum) (amount : ShiftAmount)
  /-- AND (R55, R106). -/
  | and (cond : Cond) (setFlags : Bool) (rn rd : RegNum) (op2 : Operand2)
  /-- SUB (R55, R103). -/
  | sub (cond : Cond) (setFlags : Bool) (rn rd : RegNum) (op2 : Operand2)
  /-- ADD (R55, R101). -/
  | add (cond : Cond) (setFlags : Bool) (rn rd : RegNum) (op2 : Operand2)
  /-- CMP (R55, R105); `rd` is in the record and never used. -/
  | cmp (cond : Cond) (rn rd : RegNum) (op2 : Operand2)
  /-- ORR (R55, R107). -/
  | orr (cond : Cond) (setFlags : Bool) (rn rd : RegNum) (op2 : Operand2)
  /-- MOV (R55, R100); `rn` is in the record and never read. -/
  | mov (cond : Cond) (setFlags : Bool) (rn rd : RegNum) (op2 : Operand2)
  /-- UNKNOWN_DATA_PROCESSING_IMM: an unmapped opcode in the immediate form (R55, R118). -/
  | unknownDpImm (cond : Cond) (setFlags : Bool) (rn rd : RegNum) (value : Word)
  /-- UNKNOWN_DATA_PROCESSING_REG: an unmapped opcode in a register form (R55, R119). -/
  | unknownDpReg (cond : Cond) (setFlags : Bool) (rn rd rm : RegNum) (ty : ShiftType) (amount : ShiftAmount)
  /-- LDR (R66, R113). -/
  | ldr (cond : Cond) (rn rd : RegNum) (offset : BitVec 12)
  /-- STR (R66, R114). -/
  | str (cond : Cond) (rn rd : RegNum) (offset : BitVec 12)
  /-- B (R67, R115). -/
  | b (cond : Cond) (offset : BitVec 24)
  /-- BL (R67, R116). -/
  | bl (cond : Cond) (offset : BitVec 24)
  /-- UNKNOWN: a word of no class (R68, R117). -/
  | unknown (cond : Cond)
  deriving DecidableEq, Repr

end Sys2Proof
end

