-- ==== Sys2Proof/Syntax/Record.lean ====
section
/-! DEFINITION. The instruction record: what the decoder makes of one word and the `record` interface carries
(R9, R70). Its fields by name (kind, cond, set_flags, rd, …) are the accessors of Sys2Proof/Decode.lean. -/

namespace Sys2Proof

/-- An instruction record: the instruction with its operand fields, and `raw_word`, "the original 32-bit value"
(R24, R70). -/
structure Record where
  instr   : Instr
  rawWord : Word
  deriving DecidableEq, Repr

end Sys2Proof
end

