-- ==== Sys2Proof/WellFormed.lean ====
section
/-! DEFINITION. Which instructions the decoder can produce: the limits that the record's fields obey beyond
their widths (R57, R62, R64, R78). -/

namespace Sys2Proof

/-- A decoded register operand always carries an amount, immediate or register (R78). -/
def ShiftAmount.wellFormed : ShiftAmount → Bool
  | .imm _ => true
  | .reg _ => true
  | .none => false

/-- A resolved immediate is a byte rotated right by an even amount (R57); a register operand carries a shift
amount (R78). -/
def Operand2.wellFormed : Operand2 → Bool
  | .imm value => (Machine.immediateFields? value).isSome
  | .reg _ _ amount => amount.wellFormed

/-- A register-form MOV has an `rn` field that is not 0; with rn = 0 it is a shift kind (R62, R70). -/
def Operand2.movRnAllowed (rn : RegNum) : Operand2 → Bool
  | .imm _ => true
  | .reg _ _ _ => rn != 0#4

/-- The instructions that some word decodes to. -/
def Instr.wellFormed : Instr → Bool
  | .mul _ _ _ _ _ => true
  | .addeq _ _ _ op2 => op2.wellFormed
  | .subne _ _ _ op2 => op2.wellFormed
  | .lsl _ _ _ _ amount => amount.wellFormed
  | .lsr _ _ _ _ amount => amount.wellFormed
  | .asr _ _ _ _ amount => amount.wellFormed
  | .ror _ _ _ _ amount => amount.wellFormed
  | .and _ _ _ _ op2 => op2.wellFormed
  | .sub cond _ _ _ op2 => op2.wellFormed && cond != Cond.ne
  | .add cond _ _ _ op2 => op2.wellFormed && cond != Cond.eq
  | .cmp _ _ _ op2 => op2.wellFormed
  | .orr _ _ _ _ op2 => op2.wellFormed
  | .mov _ _ rn _ op2 => op2.wellFormed && op2.movRnAllowed rn
  | .unknownDpImm _ _ _ _ value => (Machine.immediateFields? value).isSome
  | .unknownDpReg _ _ _ _ _ _ amount => amount.wellFormed
  | .ldr _ _ _ _ => true
  | .str _ _ _ _ => true
  | .b _ _ => true
  | .bl _ _ => true
  | .unknown _ => true

end Sys2Proof
end

