-- ==== Sys2Proof/Decode.lean ====
section
/-! DEFINITION. The decoder (R49 to R78), total on every word; the record's fields; the encoder; the opcode table. -/

namespace Sys2Proof

/-! ## Fields of a word -/

/-- `cond`, bits 31 to 28, of every word (R50). -/
def condField (w : Word) : Cond := w.extractLsb' 28 4

/-- Bits 19 to 16: `rn` of the data-processing and load/store formats (R54, R66), `rd` of MUL (R53). -/
def field19to16 (w : Word) : RegNum := w.extractLsb' 16 4

/-- Bits 15 to 12: `rd` of the data-processing and load/store formats (R54, R66). -/
def field15to12 (w : Word) : RegNum := w.extractLsb' 12 4

/-- Bits 11 to 8: `rs` (R53, R58) and `rotate` (R56). -/
def field11to8 (w : Word) : BitVec 4 := w.extractLsb' 8 4

/-- Bits 3 to 0: `rm` (R53, R58). -/
def field3to0 (w : Word) : RegNum := w.extractLsb' 0 4

/-- Bit 20: the S-bit of multiply and data processing (R53, R54), the l_bit of load/store (R66). -/
def bit20 (w : Word) : Bool := w.getLsbD 20

/-- Bits 24 to 21: the data-processing opcode (R54). -/
def opcodeField (w : Word) : BitVec 4 := w.extractLsb' 21 4

/-- Bits 6 to 5: the shift type (R59). -/
def shiftTypeOf (ty : BitVec 2) : ShiftType :=
  if ty = 0b00#2 then .lsl
  else if ty = 0b01#2 then .lsr
  else if ty = 0b10#2 then .asr
  else .ror

/-- The shift amount of a register operand: the immediate field if bit 4 = 0, register `rs` if bit 4 = 1; bit 7 of
the register-shift form is ignored (R58, R60, R61). -/
def shiftAmountField (w : Word) : ShiftAmount :=
  if w.getLsbD 4 then .reg (field11to8 w) else .imm (w.extractLsb' 7 5)

/-- Operand 2 by form: bit 25 chooses the immediate form (R54, R56, R57) or a register form (R58). -/
def operand2Field (w : Word) : Operand2 :=
  if w.getLsbD 25 then .imm (Machine.rotateImmediate (field11to8 w) (w.extractLsb' 0 8))
  else .reg (field3to0 w) (shiftTypeOf (w.extractLsb' 5 2)) (shiftAmountField w)

/-! ## Classes -/

/-- Class 1, multiply: bits 27 to 24 = 0000 and bits 7 to 4 = 1001 (R51, R53). -/
def isMultiply (w : Word) : Bool :=
  w.extractLsb' 24 4 == 0b0000#4 && w.extractLsb' 4 4 == 0b1001#4

/-- Format MUL; bits 23 to 21 and 15 to 12 are not examined (R53). -/
def decodeMultiply (w : Word) : Instr :=
  .mul (condField w) (bit20 w) (field19to16 w) (field11to8 w) (field3to0 w)

/-- The kind a register-form MOV with rn = 0 is given by its shift type (R62). -/
def shiftKind (cond : Cond) (setFlags : Bool) (rd rm : RegNum) (amount : ShiftAmount) : ShiftType → Instr
  | .lsl => .lsl cond setFlags rd rm amount
  | .lsr => .lsr cond setFlags rd rm amount
  | .asr => .asr cond setFlags rd rm amount
  | .ror => .ror cond setFlags rd rm amount

/-- Opcode MOV: the immediate form, or a register form with rn not 0, is MOV; a register form with rn = 0 is a shift
kind (R62). The self-rotate alias is the case `ror`, rm = rd of it and needs no step of its own (R63, C3). -/
def decodeMove (cond : Cond) (setFlags : Bool) (rn rd : RegNum) : Operand2 → Instr
  | .imm value => .mov cond setFlags rn rd (.imm value)
  | .reg rm ty amount =>
    if rn = 0#4 then shiftKind cond setFlags rd rm amount ty
    else .mov cond setFlags rn rd (.reg rm ty amount)

/-- An unmapped opcode, by the form taken (R55); the extracted fields stay in the record (R70, D13). -/
def decodeUnmapped (cond : Cond) (setFlags : Bool) (rn rd : RegNum) : Operand2 → Instr
  | .imm value => .unknownDpImm cond setFlags rn rd value
  | .reg rm ty amount => .unknownDpReg cond setFlags rn rd rm ty amount

/-- The opcode's kind (R55), with the shift alias (R62) and the condition renaming (R64), in the order of R65. -/
def decodeOpcode (opcode : BitVec 4) (cond : Cond) (setFlags : Bool) (rn rd : RegNum) (op2 : Operand2) : Instr :=
  if opcode = 0b0000#4 then .and cond setFlags rn rd op2
  else if opcode = 0b0010#4 then
    if cond = Cond.ne then .subne setFlags rn rd op2 else .sub cond setFlags rn rd op2
  else if opcode = 0b0100#4 then
    if cond = Cond.eq then .addeq setFlags rn rd op2 else .add cond setFlags rn rd op2
  else if opcode = 0b1010#4 then .cmp cond rn rd op2
  else if opcode = 0b1100#4 then .orr cond setFlags rn rd op2
  else if opcode = 0b1101#4 then decodeMove cond setFlags rn rd op2
  else decodeUnmapped cond setFlags rn rd op2

/-- Class 2, data processing (R54 to R65). -/
def decodeDataProcessing (w : Word) : Instr :=
  decodeOpcode (opcodeField w) (condField w) (bit20 w) (field19to16 w) (field15to12 w) (operand2Field w)

/-- Class 3, load/store; bits 25 to 21 are not examined (R66). -/
def decodeLoadStore (w : Word) : Instr :=
  if bit20 w then .ldr (condField w) (field19to16 w) (field15to12 w) (w.extractLsb' 0 12)
  else .str (condField w) (field19to16 w) (field15to12 w) (w.extractLsb' 0 12)

/-- Class 4, branch; the offset is the raw unsigned field (R67). -/
def decodeBranch (w : Word) : Instr :=
  if w.getLsbD 24 then .bl (condField w) (w.extractLsb' 0 24) else .b (condField w) (w.extractLsb' 0 24)

/-- `decode(word)`: the five classes in order, first match wins (R51); total (R71). -/
def decodeWord (w : Word) : Instr :=
  if isMultiply w then decodeMultiply w
  else if w.extractLsb' 26 2 = 0b00#2 then decodeDataProcessing w
  else if w.extractLsb' 26 2 = 0b01#2 then decodeLoadStore w
  else if w.extractLsb' 25 3 = 0b101#3 then decodeBranch w
  else .unknown (condField w)

/-- The record of a word (R70, R79). -/
def decodeRecord (w : Word) : Record := { instr := decodeWord w, rawWord := w }

/-! ## Bytes -/

/-- Why a list of bytes gives no instruction. -/
inductive DecodeError where
  /-- Fewer than four bytes: they complete no word (R32). -/
  | truncatedWord
  deriving DecidableEq, Repr

/-- The first instruction of a byte list and the bytes after it; words are big-endian (R30, R32). -/
def decodeBytes : List Byte → Except DecodeError (Instr × List Byte)
  | b0 :: b1 :: b2 :: b3 :: rest => .ok (decodeWord (Machine.wordOfBigEndian b0 b1 b2 b3), rest)
  | _ => .error .truncatedWord

/-- What the decoder reads from an instruction whose bits are `w`, numbered as spec/opcode_table.json numbers
them (bit 0 least significant); the table's rows have 32 bits, and bits above `nbits` are 0. -/
def decodeTableWord (nbits w : Nat) : Option Instr :=
  match decodeBytes (Machine.bigEndianBytes (BitVec.ofNat 32 (w % 2 ^ nbits))) with
  | .ok (i, _) => some i
  | .error _ => none

/-! ## The record's fields (R69, R70) -/

/-- `kind` (R52). -/
def Instr.kind : Instr → Kind
  | .mul _ _ _ _ _ => .mul
  | .addeq _ _ _ _ => .addeq
  | .subne _ _ _ _ => .subne
  | .lsl _ _ _ _ _ => .lsl
  | .lsr _ _ _ _ _ => .lsr
  | .asr _ _ _ _ _ => .asr
  | .ror _ _ _ _ _ => .ror
  | .and _ _ _ _ _ => .and
  | .sub _ _ _ _ _ => .sub
  | .add _ _ _ _ _ => .add
  | .cmp _ _ _ _ => .cmp
  | .orr _ _ _ _ _ => .orr
  | .mov _ _ _ _ _ => .mov
  | .unknownDpImm _ _ _ _ _ => .unknownDpImm
  | .unknownDpReg _ _ _ _ _ _ _ => .unknownDpReg
  | .ldr _ _ _ _ => .ldr
  | .str _ _ _ _ => .str
  | .b _ _ => .b
  | .bl _ _ => .bl
  | .unknown _ => .unknown

/-- `cond`: extracted for every word; always EQ for ADDEQ and NE for SUBNE (R50, R102, R104). -/
def Instr.cond : Instr → Cond
  | .mul cond _ _ _ _ => cond
  | .addeq _ _ _ _ => Cond.eq
  | .subne _ _ _ _ => Cond.ne
  | .lsl cond _ _ _ _ => cond
  | .lsr cond _ _ _ _ => cond
  | .asr cond _ _ _ _ => cond
  | .ror cond _ _ _ _ => cond
  | .and cond _ _ _ _ => cond
  | .sub cond _ _ _ _ => cond
  | .add cond _ _ _ _ => cond
  | .cmp cond _ _ _ => cond
  | .orr cond _ _ _ _ => cond
  | .mov cond _ _ _ _ => cond
  | .unknownDpImm cond _ _ _ _ => cond
  | .unknownDpReg cond _ _ _ _ _ _ => cond
  | .ldr cond _ _ _ => cond
  | .str cond _ _ _ => cond
  | .b cond _ => cond
  | .bl cond _ => cond
  | .unknown cond => cond

/-- `set_flags`: the S-bit, true for CMP, false in the classes that have no S-bit (R69, D12). -/
def Instr.setFlags : Instr → Bool
  | .mul _ s _ _ _ => s
  | .addeq s _ _ _ => s
  | .subne s _ _ _ => s
  | .lsl _ s _ _ _ => s
  | .lsr _ s _ _ _ => s
  | .asr _ s _ _ _ => s
  | .ror _ s _ _ _ => s
  | .and _ s _ _ _ => s
  | .sub _ s _ _ _ => s
  | .add _ s _ _ _ => s
  | .cmp _ _ _ _ => true
  | .orr _ s _ _ _ => s
  | .mov _ s _ _ _ => s
  | .unknownDpImm _ s _ _ _ => s
  | .unknownDpReg _ s _ _ _ _ _ => s
  | .ldr _ _ _ _ => false
  | .str _ _ _ _ => false
  | .b _ _ => false
  | .bl _ _ => false
  | .unknown _ => false

/-- Operand 2 of the kinds that the resolver serves (R85), and of the two data-processing fallbacks (D13). -/
def Instr.operandSet? : Instr → Option Operand2
  | .mul _ _ _ _ _ => none
  | .addeq _ _ _ op2 => some op2
  | .subne _ _ _ op2 => some op2
  | .lsl _ _ _ rm amount => some (.reg rm .lsl amount)
  | .lsr _ _ _ rm amount => some (.reg rm .lsr amount)
  | .asr _ _ _ rm amount => some (.reg rm .asr amount)
  | .ror _ _ _ rm amount => some (.reg rm .ror amount)
  | .and _ _ _ _ op2 => some op2
  | .sub _ _ _ _ op2 => some op2
  | .add _ _ _ _ op2 => some op2
  | .cmp _ _ _ op2 => some op2
  | .orr _ _ _ _ op2 => some op2
  | .mov _ _ _ _ op2 => some op2
  | .unknownDpImm _ _ _ _ value => some (.imm value)
  | .unknownDpReg _ _ _ _ rm ty amount => some (.reg rm ty amount)
  | .ldr _ _ _ _ => none
  | .str _ _ _ _ => none
  | .b _ _ => none
  | .bl _ _ => none
  | .unknown _ => none

/-- `rn`; 0 in the shift kinds, "kept as 0 for documentation" (R62, R70). -/
def Instr.rn? : Instr → Option RegNum
  | .mul _ _ _ _ _ => none
  | .addeq _ rn _ _ => some rn
  | .subne _ rn _ _ => some rn
  | .lsl _ _ _ _ _ => some 0#4
  | .lsr _ _ _ _ _ => some 0#4
  | .asr _ _ _ _ _ => some 0#4
  | .ror _ _ _ _ _ => some 0#4
  | .and _ _ rn _ _ => some rn
  | .sub _ _ rn _ _ => some rn
  | .add _ _ rn _ _ => some rn
  | .cmp _ rn _ _ => some rn
  | .orr _ _ rn _ _ => some rn
  | .mov _ _ rn _ _ => some rn
  | .unknownDpImm _ _ rn _ _ => some rn
  | .unknownDpReg _ _ rn _ _ _ _ => some rn
  | .ldr _ rn _ _ => some rn
  | .str _ rn _ _ => some rn
  | .b _ _ => none
  | .bl _ _ => none
  | .unknown _ => none

/-- `rd` (R70). -/
def Instr.rd? : Instr → Option RegNum
  | .mul _ _ rd _ _ => some rd
  | .addeq _ _ rd _ => some rd
  | .subne _ _ rd _ => some rd
  | .lsl _ _ rd _ _ => some rd
  | .lsr _ _ rd _ _ => some rd
  | .asr _ _ rd _ _ => some rd
  | .ror _ _ rd _ _ => some rd
  | .and _ _ _ rd _ => some rd
  | .sub _ _ _ rd _ => some rd
  | .add _ _ _ rd _ => some rd
  | .cmp _ _ rd _ => some rd
  | .orr _ _ _ rd _ => some rd
  | .mov _ _ _ rd _ => some rd
  | .unknownDpImm _ _ _ rd _ => some rd
  | .unknownDpReg _ _ _ rd _ _ _ => some rd
  | .ldr _ _ rd _ => some rd
  | .str _ _ rd _ => some rd
  | .b _ _ => none
  | .bl _ _ => none
  | .unknown _ => none

/-- `rm` of an operand 2. -/
def Operand2.rm? : Operand2 → Option RegNum
  | .imm _ => none
  | .reg rm _ _ => some rm

/-- `shift_type` of an operand 2. -/
def Operand2.shiftType? : Operand2 → Option ShiftType
  | .imm _ => none
  | .reg _ ty _ => some ty

/-- `shift_amount` of an operand 2. -/
def Operand2.shiftAmount? : Operand2 → Option (BitVec 5)
  | .reg _ _ (.imm n) => some n
  | .reg _ _ (.reg _) => none
  | .reg _ _ .none => none
  | .imm _ => none

/-- `rs` of an operand 2. -/
def Operand2.rs? : Operand2 → Option RegNum
  | .reg _ _ (.reg rs) => some rs
  | .reg _ _ (.imm _) => none
  | .reg _ _ .none => none
  | .imm _ => none

/-- `operand2`, the resolved immediate, of an operand 2. -/
def Operand2.immediate? : Operand2 → Option Word
  | .imm value => some value
  | .reg _ _ _ => none

/-- `rm` (R70): the multiplicand of MUL, the register of a register operand. -/
def Instr.rm? : Instr → Option RegNum
  | .mul _ _ _ _ rm => some rm
  | i => i.operandSet?.bind Operand2.rm?

/-- `rs` (R70): the multiplier of MUL, the shift-amount register of form DPRS. -/
def Instr.rs? : Instr → Option RegNum
  | .mul _ _ _ rs _ => some rs
  | i => i.operandSet?.bind Operand2.rs?

/-- `operand2`, the resolved immediate of form DPI (R57, R70). -/
def Instr.operand2? (i : Instr) : Option Word := i.operandSet?.bind Operand2.immediate?

/-- `shift_type` (R59, R70). -/
def Instr.shiftType? (i : Instr) : Option ShiftType := i.operandSet?.bind Operand2.shiftType?

/-- `shift_amount` (R60, R70). -/
def Instr.shiftAmount? (i : Instr) : Option (BitVec 5) := i.operandSet?.bind Operand2.shiftAmount?

/-- `offset` as an unsigned number: 12 bits in LDR and STR (R66), 24 bits in B and BL (R67). -/
def Instr.offset? : Instr → Option Nat
  | .mul _ _ _ _ _ => none
  | .addeq _ _ _ _ => none
  | .subne _ _ _ _ => none
  | .lsl _ _ _ _ _ => none
  | .lsr _ _ _ _ _ => none
  | .asr _ _ _ _ _ => none
  | .ror _ _ _ _ _ => none
  | .and _ _ _ _ _ => none
  | .sub _ _ _ _ _ => none
  | .add _ _ _ _ _ => none
  | .cmp _ _ _ _ => none
  | .orr _ _ _ _ _ => none
  | .mov _ _ _ _ _ => none
  | .unknownDpImm _ _ _ _ _ => none
  | .unknownDpReg _ _ _ _ _ _ _ => none
  | .ldr _ _ _ offset => some offset.toNat
  | .str _ _ _ offset => some offset.toNat
  | .b _ offset => some offset.toNat
  | .bl _ offset => some offset.toNat
  | .unknown _ => none

/-- The format of an operand 2's form (R56, R58). -/
def Operand2.format : Operand2 → Format
  | .imm _ => .dpi
  | .reg _ _ (.imm _) => .dpr
  | .reg _ _ (.reg _) => .dprs
  | .reg _ _ .none => .dpr

/-- The format an instruction's word has (R53 to R68, R75). -/
def Instr.format (i : Instr) : Format :=
  match i.operandSet?, i.kind with
  | some op2, _ => op2.format
  | none, .mul => .mul
  | none, .ldr => .ls
  | none, .str => .ls
  | none, .b => .br
  | none, .bl => .br
  | none, _ => .unk

/-! ## The encoder
Written from the formats of R53 to R68. Bits that the decoder ignores are 0, a resolved immediate takes its least
rotation, CMP has bit 20 set, an unmapped opcode is written 0001 and UNKNOWN has bits 27 to 25 = 100
(log entry 17). -/

/-- The two bits of a shift type (R59). -/
def ShiftType.bits : ShiftType → BitVec 2
  | .lsl => 0b00#2
  | .lsr => 0b01#2
  | .asr => 0b10#2
  | .ror => 0b11#2

/-- Bits 11 to 0 of a data-processing word (R56, R58). -/
def encodeOperand2 : Operand2 → BitVec 12
  | .imm value =>
    let fields := (Machine.immediateFields? value).getD (0#4, 0#8)
    fields.1 ++ fields.2
  | .reg rm ty (.imm n) => n ++ ty.bits ++ 0#1 ++ rm
  | .reg rm ty (.reg rs) => rs ++ 0#1 ++ ty.bits ++ 1#1 ++ rm
  | .reg rm ty .none => 0#5 ++ ty.bits ++ 0#1 ++ rm

/-- Bit 25 of a data-processing word (R54). -/
def Operand2.immediateBit : Operand2 → BitVec 1
  | .imm _ => 1#1
  | .reg _ _ _ => 0#1

/-- A data-processing word (R54). -/
def encodeDataProcessing (cond : Cond) (opcode : BitVec 4) (setFlags : Bool) (rn rd : RegNum) (op2 : Operand2) : Word :=
  cond ++ 0b00#2 ++ op2.immediateBit ++ opcode ++ BitVec.ofBool setFlags ++ rn ++ rd ++ encodeOperand2 op2

/-- A load/store word (R66). -/
def encodeLoadStore (cond : Cond) (load : Bool) (rn rd : RegNum) (offset : BitVec 12) : Word :=
  cond ++ 0b01#2 ++ 0b00000#5 ++ BitVec.ofBool load ++ rn ++ rd ++ offset

/-- A branch word (R67). -/
def encodeBranch (cond : Cond) (link : Bool) (offset : BitVec 24) : Word :=
  cond ++ 0b101#3 ++ BitVec.ofBool link ++ offset

/-- The word of an instruction. -/
def encode : Instr → Word
  | .mul cond s rd rs rm =>
    cond ++ 0b0000#4 ++ 0b000#3 ++ BitVec.ofBool s ++ rd ++ 0b0000#4 ++ rs ++ 0b1001#4 ++ rm
  | .addeq s rn rd op2 => encodeDataProcessing Cond.eq 0b0100#4 s rn rd op2
  | .subne s rn rd op2 => encodeDataProcessing Cond.ne 0b0010#4 s rn rd op2
  | .lsl cond s rd rm amount => encodeDataProcessing cond 0b1101#4 s 0#4 rd (.reg rm .lsl amount)
  | .lsr cond s rd rm amount => encodeDataProcessing cond 0b1101#4 s 0#4 rd (.reg rm .lsr amount)
  | .asr cond s rd rm amount => encodeDataProcessing cond 0b1101#4 s 0#4 rd (.reg rm .asr amount)
  | .ror cond s rd rm amount => encodeDataProcessing cond 0b1101#4 s 0#4 rd (.reg rm .ror amount)
  | .and cond s rn rd op2 => encodeDataProcessing cond 0b0000#4 s rn rd op2
  | .sub cond s rn rd op2 => encodeDataProcessing cond 0b0010#4 s rn rd op2
  | .add cond s rn rd op2 => encodeDataProcessing cond 0b0100#4 s rn rd op2
  | .cmp cond rn rd op2 => encodeDataProcessing cond 0b1010#4 true rn rd op2
  | .orr cond s rn rd op2 => encodeDataProcessing cond 0b1100#4 s rn rd op2
  | .mov cond s rn rd op2 => encodeDataProcessing cond 0b1101#4 s rn rd op2
  | .unknownDpImm cond s rn rd value => encodeDataProcessing cond 0b0001#4 s rn rd (.imm value)
  | .unknownDpReg cond s rn rd rm ty amount => encodeDataProcessing cond 0b0001#4 s rn rd (.reg rm ty amount)
  | .ldr cond rn rd offset => encodeLoadStore cond true rn rd offset
  | .str cond rn rd offset => encodeLoadStore cond false rn rd offset
  | .b cond offset => encodeBranch cond false offset
  | .bl cond offset => encodeBranch cond true offset
  | .unknown cond => cond ++ 0b100#3 ++ 0#25

/-! ## The opcode table (R75) -/

/-- A row of spec/opcode_table.json: the word `w` fits if `w AND mask = pattern`; `exceptions` is the row's `unless`. -/
structure TableRow where
  kind       : Kind
  format     : Format
  mask       : Word
  pattern    : Word
  exceptions : List (Word × Word)
  deriving DecidableEq, Repr

/-- The word fits the row's mask and match (R75). -/
def TableRow.fits (w : Word) (r : TableRow) : Bool := w &&& r.mask == r.pattern

/-- The word fits none of the row's `unless` entries (R75). -/
def TableRow.admits (w : Word) (r : TableRow) : Bool := r.exceptions.all fun e => w &&& e.1 != e.2

/-- R75's first way to decode from the table: the first row in priority order that fits, ignoring `unless`. -/
def firstRow? (rows : List TableRow) (w : Word) : Option TableRow := rows.find? (TableRow.fits w)

/-- R75's second way: the rows that fit and none of whose `unless` entries fit. -/
def selectedRows (rows : List TableRow) (w : Word) : List TableRow :=
  rows.filter fun r => r.fits w && r.admits w

/-- Rows 1 to 7 of spec/opcode_table.json: multiply and the two renamed kinds. -/
def rowsMulRenamed : List TableRow := [
  ⟨.mul, .mul, 0x0F0000F0#32, 0x00000090#32, []⟩,
  ⟨.addeq, .dpi, 0xFFE00000#32, 0x02800000#32, []⟩,
  ⟨.addeq, .dpr, 0xFFE00010#32, 0x00800000#32, []⟩,
  ⟨.addeq, .dprs, 0xFFE00010#32, 0x00800010#32, [(0x0F0000F0#32, 0x00000090#32)]⟩,
  ⟨.subne, .dpi, 0xFFE00000#32, 0x12400000#32, []⟩,
  ⟨.subne, .dpr, 0xFFE00010#32, 0x10400000#32, []⟩,
  ⟨.subne, .dprs, 0xFFE00010#32, 0x10400010#32, [(0x0F0000F0#32, 0x00000090#32)]⟩]

/-- Rows 8 to 15 of spec/opcode_table.json: the shift kinds. -/
def rowsShift : List TableRow := [
  ⟨.lsl, .dpr, 0x0FEF0070#32, 0x01A00000#32, []⟩,
  ⟨.lsl, .dprs, 0x0FEF0070#32, 0x01A00010#32, []⟩,
  ⟨.lsr, .dpr, 0x0FEF0070#32, 0x01A00020#32, []⟩,
  ⟨.lsr, .dprs, 0x0FEF0070#32, 0x01A00030#32, []⟩,
  ⟨.asr, .dpr, 0x0FEF0070#32, 0x01A00040#32, []⟩,
  ⟨.asr, .dprs, 0x0FEF0070#32, 0x01A00050#32, []⟩,
  ⟨.ror, .dpr, 0x0FEF0070#32, 0x01A00060#32, []⟩,
  ⟨.ror, .dprs, 0x0FEF0070#32, 0x01A00070#32, []⟩]

/-- Rows 16 to 33 of spec/opcode_table.json: the mapped data-processing opcodes. -/
def rowsMapped : List TableRow := [
  ⟨.and, .dpi, 0x0FE00000#32, 0x02000000#32, []⟩,
  ⟨.and, .dpr, 0x0FE00010#32, 0x00000000#32, []⟩,
  ⟨.and, .dprs, 0x0FE00010#32, 0x00000010#32, [(0x0F0000F0#32, 0x00000090#32)]⟩,
  ⟨.sub, .dpi, 0x0FE00000#32, 0x02400000#32, [(0xF0000000#32, 0x10000000#32)]⟩,
  ⟨.sub, .dpr, 0x0FE00010#32, 0x00400000#32, [(0xF0000000#32, 0x10000000#32)]⟩,
  ⟨.sub, .dprs, 0x0FE00010#32, 0x00400010#32, [(0x0F0000F0#32, 0x00000090#32), (0xF0000000#32, 0x10000000#32)]⟩,
  ⟨.add, .dpi, 0x0FE00000#32, 0x02800000#32, [(0xF0000000#32, 0x00000000#32)]⟩,
  ⟨.add, .dpr, 0x0FE00010#32, 0x00800000#32, [(0xF0000000#32, 0x00000000#32)]⟩,
  ⟨.add, .dprs, 0x0FE00010#32, 0x00800010#32, [(0x0F0000F0#32, 0x00000090#32), (0xF0000000#32, 0x00000000#32)]⟩,
  ⟨.cmp, .dpi, 0x0FE00000#32, 0x03400000#32, []⟩,
  ⟨.cmp, .dpr, 0x0FE00010#32, 0x01400000#32, []⟩,
  ⟨.cmp, .dprs, 0x0FE00010#32, 0x01400010#32, []⟩,
  ⟨.orr, .dpi, 0x0FE00000#32, 0x03800000#32, []⟩,
  ⟨.orr, .dpr, 0x0FE00010#32, 0x01800000#32, []⟩,
  ⟨.orr, .dprs, 0x0FE00010#32, 0x01800010#32, []⟩,
  ⟨.mov, .dpi, 0x0FE00000#32, 0x03A00000#32, []⟩,
  ⟨.mov, .dpr, 0x0FE00010#32, 0x01A00000#32, [(0x000F0000#32, 0x00000000#32)]⟩,
  ⟨.mov, .dprs, 0x0FE00010#32, 0x01A00010#32, [(0x000F0000#32, 0x00000000#32)]⟩]

/-- Rows 34 to 43 of spec/opcode_table.json: unmapped opcodes, immediate form. -/
def rowsUnknownImm : List TableRow := [
  ⟨.unknownDpImm, .dpi, 0x0FE00000#32, 0x02200000#32, []⟩,
  ⟨.unknownDpImm, .dpi, 0x0FE00000#32, 0x02600000#32, []⟩,
  ⟨.unknownDpImm, .dpi, 0x0FE00000#32, 0x02A00000#32, []⟩,
  ⟨.unknownDpImm, .dpi, 0x0FE00000#32, 0x02C00000#32, []⟩,
  ⟨.unknownDpImm, .dpi, 0x0FE00000#32, 0x02E00000#32, []⟩,
  ⟨.unknownDpImm, .dpi, 0x0FE00000#32, 0x03000000#32, []⟩,
  ⟨.unknownDpImm, .dpi, 0x0FE00000#32, 0x03200000#32, []⟩,
  ⟨.unknownDpImm, .dpi, 0x0FE00000#32, 0x03600000#32, []⟩,
  ⟨.unknownDpImm, .dpi, 0x0FE00000#32, 0x03C00000#32, []⟩,
  ⟨.unknownDpImm, .dpi, 0x0FE00000#32, 0x03E00000#32, []⟩]

/-- Rows 44 to 63 of spec/opcode_table.json: unmapped opcodes, register forms. -/
def rowsUnknownReg : List TableRow := [
  ⟨.unknownDpReg, .dpr, 0x0FE00010#32, 0x00200000#32, []⟩,
  ⟨.unknownDpReg, .dprs, 0x0FE00010#32, 0x00200010#32, [(0x0F0000F0#32, 0x00000090#32)]⟩,
  ⟨.unknownDpReg, .dpr, 0x0FE00010#32, 0x00600000#32, []⟩,
  ⟨.unknownDpReg, .dprs, 0x0FE00010#32, 0x00600010#32, [(0x0F0000F0#32, 0x00000090#32)]⟩,
  ⟨.unknownDpReg, .dpr, 0x0FE00010#32, 0x00A00000#32, []⟩,
  ⟨.unknownDpReg, .dprs, 0x0FE00010#32, 0x00A00010#32, [(0x0F0000F0#32, 0x00000090#32)]⟩,
  ⟨.unknownDpReg, .dpr, 0x0FE00010#32, 0x00C00000#32, []⟩,
  ⟨.unknownDpReg, .dprs, 0x0FE00010#32, 0x00C00010#32, [(0x0F0000F0#32, 0x00000090#32)]⟩,
  ⟨.unknownDpReg, .dpr, 0x0FE00010#32, 0x00E00000#32, []⟩,
  ⟨.unknownDpReg, .dprs, 0x0FE00010#32, 0x00E00010#32, [(0x0F0000F0#32, 0x00000090#32)]⟩,
  ⟨.unknownDpReg, .dpr, 0x0FE00010#32, 0x01000000#32, []⟩,
  ⟨.unknownDpReg, .dprs, 0x0FE00010#32, 0x01000010#32, []⟩,
  ⟨.unknownDpReg, .dpr, 0x0FE00010#32, 0x01200000#32, []⟩,
  ⟨.unknownDpReg, .dprs, 0x0FE00010#32, 0x01200010#32, []⟩,
  ⟨.unknownDpReg, .dpr, 0x0FE00010#32, 0x01600000#32, []⟩,
  ⟨.unknownDpReg, .dprs, 0x0FE00010#32, 0x01600010#32, []⟩,
  ⟨.unknownDpReg, .dpr, 0x0FE00010#32, 0x01C00000#32, []⟩,
  ⟨.unknownDpReg, .dprs, 0x0FE00010#32, 0x01C00010#32, []⟩,
  ⟨.unknownDpReg, .dpr, 0x0FE00010#32, 0x01E00000#32, []⟩,
  ⟨.unknownDpReg, .dprs, 0x0FE00010#32, 0x01E00010#32, []⟩]

/-- Rows 64 to 70 of spec/opcode_table.json: load/store, branch and unknown. -/
def rowsRest : List TableRow := [
  ⟨.ldr, .ls, 0x0C100000#32, 0x04100000#32, []⟩,
  ⟨.str, .ls, 0x0C100000#32, 0x04000000#32, []⟩,
  ⟨.b, .br, 0x0F000000#32, 0x0A000000#32, []⟩,
  ⟨.bl, .br, 0x0F000000#32, 0x0B000000#32, []⟩,
  ⟨.unknown, .unk, 0x0E000000#32, 0x08000000#32, []⟩,
  ⟨.unknown, .unk, 0x0E000000#32, 0x0C000000#32, []⟩,
  ⟨.unknown, .unk, 0x0E000000#32, 0x0E000000#32, []⟩]

/-- spec/opcode_table.json: 70 rows in priority order (R75). -/
def opcodeTable : List TableRow :=
  rowsMulRenamed ++ rowsShift ++ rowsMapped ++ rowsUnknownImm ++ rowsUnknownReg ++ rowsRest

end Sys2Proof
end

