-- ==== Sys2Proof/Config.lean ====
section
/-! DEFINITION. The parameters of the core (R5) and the one free value.
MEM_SIZE, ADDR_WRAP and MULS_CV act while the machine runs: they are a record `Params` that State carries and no
step changes, so that a statement over all states holds at every setting of them (log entry 3).
INIT_REGS, INIT_FLAGS and INIT_MEM act when the state is created: they are the arguments of `State.create`. -/

namespace Sys2Proof

/-- MULS_CV: what a flag-setting MUL does to C and V (R5, R112). -/
inductive MulsCV where
  /-- C and V keep their values (the spec's default, D7). -/
  | preserve
  /-- C and V are any bits (U1). -/
  | any
  deriving DecidableEq, Repr

/-- The parameters that act during a run (R5). -/
structure Params where
  /-- MEM_SIZE: capacity of data memory in bytes. -/
  memSize  : Nat
  /-- ADDR_WRAP: whether the load/store address sum wraps modulo 2^32 (R33). -/
  addrWrap : Bool
  /-- MULS_CV (R112). -/
  mulsCV   : MulsCV
  deriving DecidableEq, Repr

/-- The defaults of R5: 1024 bytes, wrapping addresses (D6), C and V preserved (D7). -/
def Params.default : Params := { memSize := 1024, addrWrap := true, mulsCV := .preserve }

/-- The free bits of a flag-setting MUL under MULS_CV = any (U1): nothing constrains them.
Applied to the counter `State.draws`; log entry 9. -/
opaque Config.freeBit : Nat → Bool

end Sys2Proof
end

