-- ==== Sys2Proof/Machine/State.lean ====
section
/-! DEFINITION. The machine state as plain data, the reasons a step can stop, and the state right after reset
(R13, R17, R18, R22, R27). -/

namespace Sys2Proof.Machine

/-- The flag set {N, Z, C, V}, each a single bit (R18). -/
structure Flags where
  n : Bool
  z : Bool
  c : Bool
  v : Bool
  deriving DecidableEq, Repr

/-- Data memory (R22): cells (address, byte), addresses strictly rising, no byte 0 listed; an unlisted address
reads 0, the default contents at creation (R27, D10). -/
abbrev Memory := List Host.Cell

/-- What one step reports on the `outcome` interface (R96, D15). -/
inductive StepOutcome where
  /-- SKIPPED_COND: the condition gate failed. -/
  | skippedCond
  /-- EXECUTED: the kind's effect happened. -/
  | executed
  /-- REJECTED_OOB: a load or store failed the bounds check. -/
  | rejectedOob
  /-- NOP_BRANCH: B or BL. -/
  | nopBranch
  /-- NOP_UNKNOWN: one of the three UNKNOWN kinds. -/
  | nopUnknown
  deriving DecidableEq, Repr

/-- The state. `regs`, `flags` and `mem` are the spec's machine state (R13, R18, R22); `params` are the
parameters of the run (R5), which no step changes; `stream` and `pos` are the driver's byte stream and fetch
position (R17, R23), which no instruction reads or writes; `record` and `outcome` are what the two output
interfaces last carried (R9), which nothing reads; `draws` is the model's own counter of free bits (log entry 9). -/
structure State where
  regs    : Vector Word 16
  flags   : Flags
  mem     : Memory
  params  : Params
  stream  : List Byte
  pos     : Nat
  record  : Option Record
  outcome : Option StepOutcome
  draws   : Nat
  deriving DecidableEq, Repr

/-- The `snapshot` interface: "registers, flags, memory" (R9). -/
structure Snapshot where
  regs  : Vector Word 16
  flags : Flags
  mem   : Memory
  deriving DecidableEq, Repr

/-- Why the machine stops. The hardware itself has no fault (R120). -/
inductive Fault where
  /-- Raised by `step` alone, when no complete word of the stream is left: the run is over and the spec has no
  further step (R141). Safe: it only stops. Log entry 2. -/
  | runEnded
  deriving DecidableEq, Repr

/-- Why an instruction has no meaning. No arm of this model answers one. -/
inductive Refusal where
  /-- An instruction whose meaning is not written yet; raised by `exec`'s arms only, safe. -/
  | notModelled (mnemonic : String)
  deriving DecidableEq, Repr

/-- INIT_REGS by default: all sixteen zero (R5, R27, D9). -/
def initRegs : Vector Word 16 := Vector.replicate 16 0#32

/-- INIT_FLAGS by default: 0, 0, 0, 0 (R5, R27, D11). -/
def initFlags : Flags := { n := false, z := false, c := false, v := false }

/-- The machine right after reset, that is, when its state is created with every parameter at its default and no
stream supplied (R27, R136, R137). -/
def State.reset : State where
  regs    := initRegs
  flags   := initFlags
  mem     := []
  params  := Params.default
  stream  := []
  pos     := 0
  record  := none
  outcome := none
  draws   := 0

end Sys2Proof.Machine
end

