-- ==== Sys2Proof/Machine/Ops.lean ====
section
/-! DEFINITION. The named operations over memory, registers, flags, outputs and the instruction stream; the
condition gate; creation of the state. There is no exception to take and none to return from (R120, R129, R130). -/

namespace Sys2Proof.Machine

/-! ## Memory -/

/-- The byte at an address; an unlisted address reads 0. -/
def Memory.read : Memory → Nat → Byte
  | [], _ => 0#8
  | (x, y) :: rest, a => if x = a then y else Memory.read rest a

/-- `mem[a] <- b`, keeping the canonical form: writing 0 removes the cell. -/
def Memory.write : Memory → Nat → Byte → Memory
  | [], a, b => if b = 0#8 then [] else [(a, b)]
  | (x, y) :: rest, a, b =>
    if a < x then (if b = 0#8 then (x, y) :: rest else (a, b) :: (x, y) :: rest)
    else if a = x then (if b = 0#8 then rest else (a, b) :: rest)
    else (x, y) :: Memory.write rest a b

/-- Every listed address is above `lo`, the addresses rise strictly, and no listed byte is 0. -/
def Memory.wfAbove : Option Nat → Memory → Bool
  | _, [] => true
  | lo, (x, y) :: rest => lo.all (· < x) && y != 0#8 && Memory.wfAbove (some x) rest

/-- The canonical form of memory: addresses strictly rising, no byte 0 listed. -/
def Memory.wf (m : Memory) : Bool := Memory.wfAbove none m

/-- `MemRead(EA, 4)`: four bytes, little-endian (R36). -/
def Memory.readWord (m : Memory) (ea : Nat) : Word :=
  wordOfLittleEndian (m.read ea) (m.read (ea + 1)) (m.read (ea + 2)) (m.read (ea + 3))

/-- `MemWrite(EA, 4, v)`: four bytes, little-endian (R37). -/
def Memory.writeWord (m : Memory) (ea : Nat) (v : Word) : Memory :=
  (((m.write ea (littleEndianByte v 0)).write (ea + 1) (littleEndianByte v 1)).write (ea + 2)
    (littleEndianByte v 2)).write (ea + 3) (littleEndianByte v 3)

/-- The memory whose bytes from address `a` on are the given ones. -/
def Memory.ofBytesFrom : Nat → List Byte → Memory
  | _, [] => []
  | a, b :: rest => if b = 0#8 then Memory.ofBytesFrom (a + 1) rest else (a, b) :: Memory.ofBytesFrom (a + 1) rest

/-! ## Registers, flags and outputs -/

/-- `x[i]`: the 32-bit value the register holds; register 15 like any other (R13, R97). -/
def State.reg (s : State) (i : RegNum) : Word := s.regs[i.toNat]'i.isLt

/-- `x[i] <- v`; register 15 like any other (R14, D4). -/
def State.setReg (s : State) (i : RegNum) (v : Word) : State :=
  { s with regs := s.regs.set i.toNat v i.isLt }

/-- Write the four flags if the instruction asks for it (R95). -/
def State.setFlagsIf (s : State) (wanted : Bool) (f : Flags) : State :=
  if wanted then { s with flags := f } else s

/-- Replace data memory. -/
def State.setMem (s : State) (m : Memory) : State := { s with mem := m }

/-- `outcome <- X` (R96). -/
def State.report (s : State) (o : StepOutcome) : State := { s with outcome := some o }

/-- The `snapshot` interface (R9). -/
def State.snapshot (s : State) : Snapshot := { regs := s.regs, flags := s.flags, mem := s.mem }

/-! ## The condition gate -/

/-- `GatePasses(rec, S)`: EQ needs Z = 1, NE needs Z = 0, the other fourteen codes always pass (R82). -/
def gatePasses (cond : Cond) (s : State) : Bool :=
  if cond = Cond.eq then s.flags.z
  else if cond = Cond.ne then !s.flags.z
  else true

/-- Execute under the gate: the effect if it passes, else no effect and the report SKIPPED_COND (R80, R83). -/
def gated (cond : Cond) (s effect : State) : State :=
  if gatePasses cond s then effect else s.report .skippedCond

/-! ## The load/store address -/

/-- The effective address: base plus unsigned offset, reduced modulo 2^32 if ADDR_WRAP (R33). -/
def State.effectiveAddress (s : State) (rn : RegNum) (offset : BitVec 12) : Nat :=
  let sum := (s.reg rn).toNat + offset.toNat
  if s.params.addrWrap then sum % 2 ^ 32 else sum

/-- The bounds check: all four bytes lie inside data memory (R34). -/
def State.accepts (s : State) (ea : Nat) : Bool := decide (ea + 4 ≤ s.params.memSize)

/-! ## The instruction stream -/

/-- Cut a byte stream into big-endian words; trailing bytes that complete no word are dropped (R30, R32). -/
def cutWords : List Byte → List Word
  | b0 :: b1 :: b2 :: b3 :: rest => wordOfBigEndian b0 b1 b2 b3 :: cutWords rest
  | _ => []

/-- The next word on `instr_word`: `W[pos]`, if a word is left (R17). -/
def State.fetchWord (s : State) : Option Word := (cutWords s.stream)[s.pos]?

/-- The record is put on its interface and the fetch position advances by one word, whatever the step does then
(R17, R147). -/
def State.present (s : State) (r : Record) : State := { s with record := some r, pos := s.pos + 1 }

/-- The stream with the four bytes of `w` at word `pos`, zero bytes standing for words before it that the stream
lacks (log entry 21). -/
def State.placeWord (s : State) (w : Word) : State :=
  { s with
    stream := (s.stream ++ List.replicate (4 * s.pos) 0#8).take (4 * s.pos) ++ bigEndianBytes w
      ++ s.stream.drop (4 * s.pos + 4) }

/-! ## Creation of the state -/

/-- The state as created: registers from INIT_REGS, flags from INIT_FLAGS, memory from INIT_MEM (a byte not given
is 0, a byte beyond MEM_SIZE does not exist), the driver's stream at position 0 (R27, R137, R139). -/
def State.create (params : Params) (regs : Vector Word 16) (flags : Flags) (mem stream : List Byte) : State where
  regs    := regs
  flags   := flags
  mem     := Memory.ofBytesFrom 0 (mem.take params.memSize)
  params  := params
  stream  := stream
  pos     := 0
  record  := none
  outcome := none
  draws   := 0

end Sys2Proof.Machine
end

