-- ==== Sys2Proof/Machine/Branch.lean ====
section
/-! DEFINITION. The branch kinds B, BL: decoded, gated, reported, with no other effect (R115, R116). -/

namespace Sys2Proof.Machine

/-- B: no register, flag, memory or fetch-position change (R115). -/
def execB (cond : Cond) (_offset : BitVec 24) (s : State) : Host.Outcome State Fault Refusal :=
  .next (gated cond s (s.report .nopBranch))

/-- BL: as B; no return address is saved (R116). -/
def execBl (cond : Cond) (_offset : BitVec 24) (s : State) : Host.Outcome State Fault Refusal :=
  .next (gated cond s (s.report .nopBranch))

end Sys2Proof.Machine
end

