-- ==== Sys2Proof/Machine/Flags.lean ====
section
/-! DEFINITION. The flag helpers (R92 to R94) and the flags of a multiply (R112). -/

namespace Sys2Proof.Machine

/-- `FlagsNZ(S, res)`: N and Z from the 32-bit result, C and V as they were (R92). -/
def flagsNZ (old : Flags) (res : Word) : Flags :=
  { old with n := res.msb, z := res == 0#32 }

/-- `FlagsAdd(S, a, b)`: C if the exact sum exceeds 2^32 - 1; V if the operands have one sign and the result the
other (R93). -/
def flagsAdd (a b : Word) : Flags :=
  let res := a + b
  { n := res.msb
    z := res == 0#32
    c := decide (a.toNat + b.toNat > 2 ^ 32 - 1)
    v := a.msb == b.msb && a.msb != res.msb }

/-- `FlagsSub(S, a, b)`: C if there is no borrow; V if the operands' signs differ and the result's sign is not the
first operand's (R94). -/
def flagsSub (a b : Word) : Flags :=
  let res := a - b
  { n := res.msb
    z := res == 0#32
    c := decide (b.toNat ≤ a.toNat)
    v := a.msb != b.msb && a.msb != res.msb }

/-- The flags after a flag-setting MUL: N and Z from the product; C and V kept, or two free bits, by MULS_CV
(R112, U1). -/
def State.flagsMul (s : State) (res : Word) : Flags :=
  match s.params.mulsCV with
  | .preserve => flagsNZ s.flags res
  | .any => { flagsNZ s.flags res with c := Config.freeBit s.draws, v := Config.freeBit (s.draws + 1) }

/-- The counter of free bits after a MUL: two were drawn if it set flags under MULS_CV = any (log entry 9). -/
def State.drawsAfterMul (s : State) (setFlags : Bool) : State :=
  match setFlags, s.params.mulsCV with
  | true, .any => { s with draws := s.draws + 2 }
  | true, .preserve => s
  | false, _ => s

end Sys2Proof.Machine
end

