-- ==== Sys2Proof/Machine/Operands.lean ====
section
/-! DEFINITION. The operand-2 resolver and the barrel shifter (R85 to R91). Neither reads nor writes a flag (R91). -/

namespace Sys2Proof.Machine

/-- `Shift(LSL, v, n)`: bits shifted past bit 31 are lost (R87). -/
def shiftLsl (v : Word) (n : Nat) : Word := v <<< n

/-- `Shift(LSR, v, n)`: zeros enter at the top; by 0 the value itself (R88). -/
def shiftLsr (v : Word) (n : Nat) : Word := v >>> n

/-- `Shift(ASR, v, n)`: copies of bit 31 enter at the top; by 0 the value itself (R89). -/
def shiftAsr (v : Word) (n : Nat) : Word := v.sshiftRight n

/-- `Shift(ROR, v, n)`: a rotate, by 0 the value itself; not through carry (R90). -/
def shiftRor (v : Word) (n : Nat) : Word := ror32 v n

/-- `Shift(type, v, n)` for 0 <= n <= 31 (R87 to R90). -/
def shift (ty : ShiftType) (v : Word) (n : Nat) : Word :=
  match ty with
  | .lsl => shiftLsl v n
  | .lsr => shiftLsr v n
  | .asr => shiftAsr v n
  | .ror => shiftRor v n

/-- `ShiftAmount(rec, S)`: the immediate amount, else the low five bits of `x[rs]`, else 0 (R86). -/
def State.shiftAmount (s : State) (amount : ShiftAmount) : Nat :=
  match amount with
  | .imm n => n.toNat
  | .reg rs => (s.reg rs).toNat % 32
  | .none => 0

/-- `Operand2(rec, S)`: the resolved immediate, else `x[rm]` shifted (R85). -/
def State.operand2 (s : State) (op2 : Operand2) : Word :=
  match op2 with
  | .imm value => value
  | .reg rm ty amount => shift ty (s.reg rm) (s.shiftAmount amount)

end Sys2Proof.Machine
end

