-- ==== Sys2Proof/Machine/DataProcessing.lean ====
section
/-! DEFINITION. The data-processing kinds MOV, ADD, ADDEQ, SUB, SUBNE, CMP, AND, ORR (R100 to R107), each in three forms that
differ only in operand 2. Operands are read from the state before the instruction (R12). -/

namespace Sys2Proof.Machine

/-- Write a result whose flags, if asked for, are N and Z: MOV, AND, ORR and the shift kinds (R92, R95). -/
def State.writeLogical (s : State) (setFlags : Bool) (rd : RegNum) (res : Word) : State :=
  ((s.setReg rd res).setFlagsIf setFlags (flagsNZ s.flags res)).report .executed

/-- `x[rd] <- (x[rn] + operand2) mod 2^32`, with FlagsAdd if asked for (R101). -/
def State.addInto (s : State) (setFlags : Bool) (rn rd : RegNum) (op2 : Operand2) : State :=
  let a := s.reg rn
  let b := s.operand2 op2
  ((s.setReg rd (a + b)).setFlagsIf setFlags (flagsAdd a b)).report .executed

/-- `x[rd] <- (x[rn] - operand2) mod 2^32`, with FlagsSub if asked for (R103). -/
def State.subInto (s : State) (setFlags : Bool) (rn rd : RegNum) (op2 : Operand2) : State :=
  let a := s.reg rn
  let b := s.operand2 op2
  ((s.setReg rd (a - b)).setFlagsIf setFlags (flagsSub a b)).report .executed

/-- MOV; `rn` is never read (R100). -/
def execMov (cond : Cond) (setFlags : Bool) (_rn rd : RegNum) (op2 : Operand2) (s : State) : Host.Outcome State Fault Refusal :=
  .next (gated cond s (s.writeLogical setFlags rd (s.operand2 op2)))

/-- ADD (R101). -/
def execAdd (cond : Cond) (setFlags : Bool) (rn rd : RegNum) (op2 : Operand2) (s : State) : Host.Outcome State Fault Refusal :=
  .next (gated cond s (s.addInto setFlags rn rd op2))

/-- ADDEQ: ADD under the gate of its condition, always EQ (R102). -/
def execAddeq (setFlags : Bool) (rn rd : RegNum) (op2 : Operand2) (s : State) : Host.Outcome State Fault Refusal :=
  .next (gated Cond.eq s (s.addInto setFlags rn rd op2))

/-- SUB (R103). -/
def execSub (cond : Cond) (setFlags : Bool) (rn rd : RegNum) (op2 : Operand2) (s : State) : Host.Outcome State Fault Refusal :=
  .next (gated cond s (s.subInto setFlags rn rd op2))

/-- SUBNE: SUB under the gate of its condition, always NE (R104). -/
def execSubne (setFlags : Bool) (rn rd : RegNum) (op2 : Operand2) (s : State) : Host.Outcome State Fault Refusal :=
  .next (gated Cond.ne s (s.subInto setFlags rn rd op2))

/-- CMP: the flags of the subtraction, always; no register is written, whatever `rd` is (R105). -/
def execCmp (cond : Cond) (rn _rd : RegNum) (op2 : Operand2) (s : State) : Host.Outcome State Fault Refusal :=
  .next (gated cond s ((s.setFlagsIf true (flagsSub (s.reg rn) (s.operand2 op2))).report .executed))

/-- AND (R106). -/
def execAnd (cond : Cond) (setFlags : Bool) (rn rd : RegNum) (op2 : Operand2) (s : State) : Host.Outcome State Fault Refusal :=
  .next (gated cond s (s.writeLogical setFlags rd (s.reg rn &&& s.operand2 op2)))

/-- ORR (R107). -/
def execOrr (cond : Cond) (setFlags : Bool) (rn rd : RegNum) (op2 : Operand2) (s : State) : Host.Outcome State Fault Refusal :=
  .next (gated cond s (s.writeLogical setFlags rd (s.reg rn ||| s.operand2 op2)))

end Sys2Proof.Machine
end

