-- ==== Sys2Proof/Machine/LoadStore.lean ====
section
/-! DEFINITION. The load/store kinds LDR, STR (R113, R114): base plus unsigned 12-bit literal, one word, no write-back,
rejected whole when out of bounds. -/

namespace Sys2Proof.Machine

/-- Make the access if its address is accepted, else reject it with no effect (R34, R35). -/
def State.access (s : State) (ea : Nat) (effect : State) : State :=
  if s.accepts ea then effect.report .executed else s.report .rejectedOob

/-- LDR (R113). -/
def execLdr (cond : Cond) (rn rd : RegNum) (offset : BitVec 12) (s : State) : Host.Outcome State Fault Refusal :=
  let ea := s.effectiveAddress rn offset
  .next (gated cond s (s.access ea (s.setReg rd (s.mem.readWord ea))))

/-- STR (R114). -/
def execStr (cond : Cond) (rn rd : RegNum) (offset : BitVec 12) (s : State) : Host.Outcome State Fault Refusal :=
  let ea := s.effectiveAddress rn offset
  .next (gated cond s (s.access ea (s.setMem (s.mem.writeWord ea (s.reg rd)))))

end Sys2Proof.Machine
end

