-- ==== Sys2Proof/Machine/Multiply.lean ====
section
/-! DEFINITION. The multiply kind MUL (R112). -/

namespace Sys2Proof.Machine

/-- MUL: the low 32 bits of `x[rm] * x[rs]`; N and Z if asked for, C and V by MULS_CV (R112). -/
def execMul (cond : Cond) (setFlags : Bool) (rd rs rm : RegNum) (s : State) : Host.Outcome State Fault Refusal :=
  let res := s.reg rm * s.reg rs
  .next (gated cond s
    ((((s.setReg rd res).setFlagsIf setFlags (s.flagsMul res)).drawsAfterMul setFlags).report .executed))

end Sys2Proof.Machine
end

