-- ==== Sys2Proof/Machine/Shifts.lean ====
section
/-! DEFINITION. The shift kinds LSL, LSR, ASR, ROR (R108 to R111): register-form moves of a shifted register,
flags N and Z only. -/

namespace Sys2Proof.Machine

/-- The common effect: `x[rd] <- Operand2`, operand 2 being `x[rm]` shifted as the kind names. -/
def State.shiftInto (s : State) (setFlags : Bool) (rd rm : RegNum) (ty : ShiftType) (amount : ShiftAmount) : State :=
  s.writeLogical setFlags rd (s.operand2 (.reg rm ty amount))

/-- LSL (R108). -/
def execLsl (cond : Cond) (setFlags : Bool) (rd rm : RegNum) (amount : ShiftAmount) (s : State) : Host.Outcome State Fault Refusal :=
  .next (gated cond s (s.shiftInto setFlags rd rm .lsl amount))

/-- LSR (R109). -/
def execLsr (cond : Cond) (setFlags : Bool) (rd rm : RegNum) (amount : ShiftAmount) (s : State) : Host.Outcome State Fault Refusal :=
  .next (gated cond s (s.shiftInto setFlags rd rm .lsr amount))

/-- ASR (R110). -/
def execAsr (cond : Cond) (setFlags : Bool) (rd rm : RegNum) (amount : ShiftAmount) (s : State) : Host.Outcome State Fault Refusal :=
  .next (gated cond s (s.shiftInto setFlags rd rm .asr amount))

/-- ROR (R111). -/
def execRor (cond : Cond) (setFlags : Bool) (rd rm : RegNum) (amount : ShiftAmount) (s : State) : Host.Outcome State Fault Refusal :=
  .next (gated cond s (s.shiftInto setFlags rd rm .ror amount))

end Sys2Proof.Machine
end

