-- ==== Sys2Proof/Machine/Unknown.lean ====
section
/-! DEFINITION. The three UNKNOWN kinds: reported no-operations (R117 to R119). -/

namespace Sys2Proof.Machine

/-- UNKNOWN (R117). -/
def execUnknown (cond : Cond) (s : State) : Host.Outcome State Fault Refusal :=
  .next (gated cond s (s.report .nopUnknown))

/-- UNKNOWN_DATA_PROCESSING_IMM: no operand is used, no flag written whatever the S-bit (R118). -/
def execUnknownDpImm (cond : Cond) (_setFlags : Bool) (_rn _rd : RegNum) (_value : Word) (s : State) : Host.Outcome State Fault Refusal :=
  .next (gated cond s (s.report .nopUnknown))

/-- UNKNOWN_DATA_PROCESSING_REG: no operand is used, no register read (R119). -/
def execUnknownDpReg (cond : Cond) (_setFlags : Bool) (_rn _rd _rm : RegNum) (_ty : ShiftType)
    (_amount : ShiftAmount) (s : State) : Host.Outcome State Fault Refusal :=
  .next (gated cond s (s.report .nopUnknown))

end Sys2Proof.Machine
end

