-- ==== Sys2Proof/Machine/Dispatch.lean ====
section
/-! DEFINITION. `Execute`: one arm per kind, each one call of its meaning (R80). -/

namespace Sys2Proof.Machine

def exec (i : Instr) (s : State) : Host.Outcome State Fault Refusal :=
  match i with
  | .mul cond setFlags rd rs rm => Sys2Proof.Machine.execMul cond setFlags rd rs rm s
  | .addeq setFlags rn rd op2 => Sys2Proof.Machine.execAddeq setFlags rn rd op2 s
  | .subne setFlags rn rd op2 => Sys2Proof.Machine.execSubne setFlags rn rd op2 s
  | .lsl cond setFlags rd rm amount => Sys2Proof.Machine.execLsl cond setFlags rd rm amount s
  | .lsr cond setFlags rd rm amount => Sys2Proof.Machine.execLsr cond setFlags rd rm amount s
  | .asr cond setFlags rd rm amount => Sys2Proof.Machine.execAsr cond setFlags rd rm amount s
  | .ror cond setFlags rd rm amount => Sys2Proof.Machine.execRor cond setFlags rd rm amount s
  | .and cond setFlags rn rd op2 => Sys2Proof.Machine.execAnd cond setFlags rn rd op2 s
  | .sub cond setFlags rn rd op2 => Sys2Proof.Machine.execSub cond setFlags rn rd op2 s
  | .add cond setFlags rn rd op2 => Sys2Proof.Machine.execAdd cond setFlags rn rd op2 s
  | .cmp cond rn rd op2 => Sys2Proof.Machine.execCmp cond rn rd op2 s
  | .orr cond setFlags rn rd op2 => Sys2Proof.Machine.execOrr cond setFlags rn rd op2 s
  | .mov cond setFlags rn rd op2 => Sys2Proof.Machine.execMov cond setFlags rn rd op2 s
  | .unknownDpImm cond setFlags rn rd value => Sys2Proof.Machine.execUnknownDpImm cond setFlags rn rd value s
  | .unknownDpReg cond setFlags rn rd rm ty amount => Sys2Proof.Machine.execUnknownDpReg cond setFlags rn rd rm ty amount s
  | .ldr cond rn rd offset => Sys2Proof.Machine.execLdr cond rn rd offset s
  | .str cond rn rd offset => Sys2Proof.Machine.execStr cond rn rd offset s
  | .b cond offset => Sys2Proof.Machine.execB cond offset s
  | .bl cond offset => Sys2Proof.Machine.execBl cond offset s
  | .unknown cond => Sys2Proof.Machine.execUnknown cond s

end Sys2Proof.Machine
end

