-- ==== Sys2Proof/Machine/Submit.lean ====
section
/-! DEFINITION. One step on a submitted word, a run over a list of words, and what a run delivers
(R79, R81, R141, R147). -/

namespace Sys2Proof.Machine

/-- `Step(w, S)`: decode the word, put the record on its interface, execute it (R79, R147). -/
def stepWord (w : Word) (s : State) : Host.Outcome State Fault Refusal :=
  exec (decodeRecord w).instr (s.present (decodeRecord w))

/-- `Run(W, S)`: the steps of the word list in order (R81). -/
def runWords : List Word → State → Host.Outcome State Fault Refusal
  | [], s => .next s
  | w :: rest, s =>
    match stepWord w s with
    | .next t => runWords rest t
    | .fault r => .fault r
    | .refused r => .refused r

/-- The (record, outcome, snapshot) triples of a run, in order (R141, R147). -/
def runTriples : List Word → State → List (Record × Option StepOutcome × Snapshot)
  | [], _ => []
  | w :: rest, s =>
    match stepWord w s with
    | .next t => (decodeRecord w, t.outcome, t.snapshot) :: runTriples rest t
    | .fault _ => []
    | .refused _ => []

end Sys2Proof.Machine
end

