-- ==== Sys2Proof/Machine/Step.lean ====
section
/-! DEFINITION. The step of the machine: take the stream's next word and execute it (R8, R17, R79). -/

namespace Sys2Proof.Machine

/-- One step: the next word of the stream is submitted; when none is left the run is over (R141). -/
def step (s : State) : Host.Outcome State Fault Refusal :=
  match s.fetchWord with
  | none => .fault .runEnded
  | some w => stepWord w s

/-- The state with the instruction whose bits are `w` (numbered as spec/opcode_table.json numbers them) standing
where `step` takes its next word: the stand-in for the driver's load of the stream (log entry 1). -/
def State.withFetchWord (s : State) (nbits w : Nat) : State :=
  s.placeWord (BitVec.ofNat 32 (w % 2 ^ nbits))

end Sys2Proof.Machine
end

