-- ==== Sys2Proof/Safety.lean ====
section
/-! DEFINITION. The terms that claims about the machine use: the invariant of a state, an instruction's frame, the
open gate, integer readings of bits. None of them is used by the machine. -/

namespace Sys2Proof.Machine

/-! ## The invariant (R26) -/

/-- No cell at or above an address is listed. -/
def Memory.below (m : Memory) (size : Nat) : Bool := m.all fun cell => decide (cell.1 < size)

/-- The record on the interface is the decode of its raw word (R70, R71). -/
def State.recordDecoded (s : State) : Bool := s.record.all fun r => r.instr == decodeWord r.rawWord

/-- The invariant: memory is in canonical form and lies below MEM_SIZE (R22, R26), the fetch position is no further
than the end of the stream (R17), the record shown is the decode of its word (R71). -/
abbrev State.Inv (s : State) : Prop :=
  s.mem.wf = true ∧ s.mem.below s.params.memSize = true ∧ s.pos ≤ s.stream.length / 4 ∧ s.recordDecoded = true

/-! ## Frames -/

/-- Every register holds what it held. -/
def SameRegs (s t : State) : Prop := ∀ r, t.reg r = s.reg r

/-- Every register but `rd` holds what it held. -/
def SameRegsBut (rd : RegNum) (s t : State) : Prop := ∀ r, r ≠ rd → t.reg r = s.reg r

/-- Every byte of memory reads as before. -/
def SameMem (s t : State) : Prop := ∀ a, t.mem.read a = s.mem.read a

/-- Every byte of memory outside the four bytes at `ea` reads as before. -/
def SameMemBut (ea : Nat) (s t : State) : Prop := ∀ a, a < ea ∨ ea + 4 ≤ a → t.mem.read a = s.mem.read a

/-- The parameters, the driver's stream, the fetch position and the record are as before. -/
def SameDriver (s t : State) : Prop :=
  t.params = s.params ∧ t.stream = s.stream ∧ t.pos = s.pos ∧ t.record = s.record

/-- Nothing but the report changed: registers, flags, memory, parameters, stream, position, record and the counter
of free bits are as before. -/
def NoEffect (s t : State) : Prop :=
  SameRegs s t ∧ t.flags = s.flags ∧ t.mem = s.mem ∧ SameDriver s t ∧ t.draws = s.draws

/-- What an instruction that writes one register and maybe flags leaves alone: the other registers, memory, the
driver's side, the counter of free bits; and it reports EXECUTED. -/
def WritesOnly (rd : RegNum) (s t : State) : Prop :=
  SameRegsBut rd s t ∧ SameMem s t ∧ SameDriver s t ∧ t.draws = s.draws ∧ t.outcome = some .executed

/-! ## Integer readings -/

/-- `w[hi:lo]` as a number (R11). -/
def bits (w : Word) (hi lo : Nat) : Nat := w.toNat / 2 ^ lo % 2 ^ (hi - lo + 1)

/-- `ror32(v, n)` of a 32-bit number for 0 <= n <= 31 (R11). -/
def ror32Nat (v n : Nat) : Nat := if n = 0 then v else (v / 2 ^ n ||| v * 2 ^ (32 - n)) % 2 ^ 32

/-- `sext_32(v)`: the 32-bit number read as two's complement (R11). -/
def sext32 (v : Nat) : Int := if v < 2 ^ 31 then (v : Int) else (v : Int) - 2 ^ 32

/-- Bit 31 of a 32-bit number (R11). -/
def bit31 (v : Nat) : Bool := decide (2 ^ 31 ≤ v)

/-- The gate lets the condition pass: EQ only with Z = 1, NE only with Z = 0, every other code always (R82). -/
abbrev GateOpen (cond : Cond) (s : State) : Prop :=
  (cond.toNat = 0 → s.flags.z = true) ∧ (cond.toNat = 1 → s.flags.z = false)

/-- N and Z are those of the 32-bit result `res`, C and V are as before (R92). -/
def FlagsNZFrom (res : Nat) (s t : State) : Prop :=
  t.flags.n = bit31 res ∧ t.flags.z = decide (res = 0) ∧ t.flags.c = s.flags.c ∧ t.flags.v = s.flags.v

/-- The flags of `a + b` (R93). -/
def FlagsAddFrom (a b : Nat) (t : State) : Prop :=
  let res := (a + b) % 2 ^ 32
  t.flags.n = bit31 res ∧ t.flags.z = decide (res = 0) ∧ t.flags.c = decide (a + b > 2 ^ 32 - 1) ∧
  (t.flags.v = true ↔ bit31 a = bit31 b ∧ bit31 a ≠ bit31 res)

/-- `(a - b) mod 2^32` of 32-bit numbers (R11). -/
def subMod (a b : Nat) : Nat := (((a : Int) - (b : Int)) % 2 ^ 32).toNat

/-- The flags of `a - b` (R94). -/
def FlagsSubFrom (a b : Nat) (t : State) : Prop :=
  let res := subMod a b
  t.flags.n = bit31 res ∧ t.flags.z = decide (res = 0) ∧ t.flags.c = decide (a ≥ b) ∧
  (t.flags.v = true ↔ bit31 a ≠ bit31 b ∧ bit31 a ≠ bit31 res)

/-! ## A run -/

/-- `k` steps, stopping at the first stop. -/
def stepTimes : Nat → State → Host.Outcome State Fault Refusal
  | 0, s => .next s
  | k + 1, s =>
    match step s with
    | .next t => stepTimes k t
    | .fault r => .fault r
    | .refused r => .refused r

/-- No complete word of the stream is left (R141). -/
abbrev State.runOver (s : State) : Prop := s.stream.length / 4 ≤ s.pos

end Sys2Proof.Machine
end

