-- ==== Sys2Proof/Certificates/Slice0/Obligations.lean ====
section
/-! DEFINITION. The statements for the provers. Where a clause rests on a decision of the spec (D<n> of
92_eei_decisions.md) or on a choice of this model (an entry of notes/assumptions/), the docstring names it. -/

open Sys2Proof Sys2Proof.Machine

/-! ## Decoding -/

/-- One word of each of the 20 kinds, from 95_test_vectors.md V-KIND, decodes to the instruction its fields spell. -/
def Obligations.SampleWordsDecode : Prop :=
  decodeWord 0xE3A00010#32 = .mov 14#4 false 0#4 0#4 (.imm 16#32) ∧
  decodeWord 0xE0813002#32 = .add 14#4 false 1#4 3#4 (.reg 2#4 .lsl (.imm 0#5)) ∧
  decodeWord 0xE0502001#32 = .sub 14#4 true 0#4 2#4 (.reg 1#4 .lsl (.imm 0#5)) ∧
  decodeWord 0x00902001#32 = .addeq true 0#4 2#4 (.reg 1#4 .lsl (.imm 0#5)) ∧
  decodeWord 0x10400005#32 = .subne false 0#4 0#4 (.reg 5#4 .lsl (.imm 0#5)) ∧
  decodeWord 0xE1500005#32 = .cmp 14#4 0#4 0#4 (.reg 5#4 .lsl (.imm 0#5)) ∧
  decodeWord 0xE0102001#32 = .and 14#4 true 0#4 2#4 (.reg 1#4 .lsl (.imm 0#5)) ∧
  decodeWord 0xE1902001#32 = .orr 14#4 true 0#4 2#4 (.reg 1#4 .lsl (.imm 0#5)) ∧
  decodeWord 0xE0020190#32 = .mul 14#4 false 2#4 1#4 0#4 ∧
  decodeWord 0xE5912004#32 = .ldr 14#4 1#4 2#4 4#12 ∧
  decodeWord 0xE5812004#32 = .str 14#4 1#4 2#4 4#12 ∧
  decodeWord 0xEA000002#32 = .b 14#4 2#24 ∧
  decodeWord 0xEBFFFFFE#32 = .bl 14#4 16777214#24 ∧
  decodeWord 0xE1A02001#32 = .lsl 14#4 false 2#4 1#4 (.imm 0#5) ∧
  decodeWord 0xE1A02021#32 = .lsr 14#4 false 2#4 1#4 (.imm 0#5) ∧
  decodeWord 0xE1A02041#32 = .asr 14#4 false 2#4 1#4 (.imm 0#5) ∧
  decodeWord 0xE1A02061#32 = .ror 14#4 false 2#4 1#4 (.imm 0#5) ∧
  decodeWord 0xEF000011#32 = .unknown 14#4 ∧
  decodeWord 0xE2200001#32 = .unknownDpImm 14#4 false 0#4 0#4 1#32 ∧
  decodeWord 0xE0200000#32 = .unknownDpReg 14#4 false 0#4 0#4 0#4 .lsl (.imm 0#5)

/-- R50: bits 31 to 28 of every word are its condition code, whatever the class. -/
def Obligations.CondOfEveryWord : Prop :=
  ∀ w : Word, (decodeRecord w).instr.cond.toNat = bits w 31 28

/-- R53: every word with bits 27 to 24 = 0000 and bits 7 to 4 = 1001 is a MUL with these fields, whatever its other
bits. -/
def Obligations.MultiplyWordFields : Prop :=
  ∀ w : Word, bits w 27 24 = 0 → bits w 7 4 = 9 →
    ∃ cond setFlags rd rs rm, decodeWord w = .mul cond setFlags rd rs rm ∧
      cond.toNat = bits w 31 28 ∧ (setFlags = true ↔ bits w 20 20 = 1) ∧
      rd.toNat = bits w 19 16 ∧ rs.toNat = bits w 11 8 ∧ rm.toNat = bits w 3 0

/-- R55, with the shift alias (R62) and the condition renaming (R64): the kind of a class 2 word, from its opcode, form,
`rn`, shift type and condition; CMP has `set_flags` true. -/
def Obligations.DataProcessingKinds : Prop :=
  ∀ w : Word, bits w 27 26 = 0 → ¬ (bits w 27 24 = 0 ∧ bits w 7 4 = 9) →
    let kind := (decodeWord w).kind
    let opcode := bits w 24 21
    (opcode = 0b0000 → kind = .and) ∧
    (opcode = 0b0010 → kind = if bits w 31 28 = 1 then .subne else .sub) ∧
    (opcode = 0b0100 → kind = if bits w 31 28 = 0 then .addeq else .add) ∧
    (opcode = 0b1010 → kind = .cmp ∧ (decodeWord w).setFlags = true) ∧
    (opcode = 0b1100 → kind = .orr) ∧
    (opcode = 0b1101 → bits w 25 25 = 1 → kind = .mov) ∧
    (opcode = 0b1101 → bits w 25 25 = 0 → bits w 19 16 ≠ 0 → kind = .mov) ∧
    (opcode = 0b1101 → bits w 25 25 = 0 → bits w 19 16 = 0 →
      kind = if bits w 6 5 = 0 then .lsl else if bits w 6 5 = 1 then .lsr else if bits w 6 5 = 2 then .asr else .ror) ∧
    (opcode ∈ [0b0001, 0b0011, 0b0101, 0b0110, 0b0111, 0b1000, 0b1001, 0b1011, 0b1110, 0b1111] →
      kind = if bits w 25 25 = 1 then .unknownDpImm else .unknownDpReg)

/-- R54: `rn`, `rd` and `set_flags` of a class 2 word; `set_flags` is forced true for CMP (R55). That the records of
the ten unmapped opcodes keep these fields is the spec's own decision D13 (R69, R70; log entry 15, DEDUCED). -/
def Obligations.DataProcessingRegisters : Prop :=
  ∀ w : Word, bits w 27 26 = 0 → ¬ (bits w 27 24 = 0 ∧ bits w 7 4 = 9) →
    (decodeWord w).rn?.map BitVec.toNat = some (bits w 19 16) ∧
    (decodeWord w).rd?.map BitVec.toNat = some (bits w 15 12) ∧
    ((decodeWord w).setFlags = true ↔ bits w 20 20 = 1 ∨ bits w 24 21 = 0b1010)

/-- R56 to R58: the operand-2 fields of a class 2 word, by form; the immediate is the byte rotated right by twice
`rotate`. That the records of the ten unmapped opcodes keep these fields is the spec's own decision D13 (R70; log entry
15, DEDUCED); that bit 7 of the register-shift form is ignored is the spec's inference (R58, N15; log entry 20,
DEDUCED). -/
def Obligations.Operand2Fields : Prop :=
  ∀ w : Word, bits w 27 26 = 0 → ¬ (bits w 27 24 = 0 ∧ bits w 7 4 = 9) →
    let i := decodeWord w
    (bits w 25 25 = 1 →
      i.operand2?.map BitVec.toNat = some (ror32Nat (bits w 7 0) (2 * bits w 11 8)) ∧
      i.rm? = none ∧ i.shiftType? = none ∧ i.shiftAmount? = none ∧ i.rs? = none) ∧
    (bits w 25 25 = 0 →
      i.operand2? = none ∧ i.rm?.map BitVec.toNat = some (bits w 3 0) ∧
      i.shiftType?.map (fun ty => ty.bits.toNat) = some (bits w 6 5) ∧
      (bits w 4 4 = 0 → i.shiftAmount?.map BitVec.toNat = some (bits w 11 7) ∧ i.rs? = none) ∧
      (bits w 4 4 = 1 → i.rs?.map BitVec.toNat = some (bits w 11 8) ∧ i.shiftAmount? = none))

/-- R63: a word of the self-rotate form is a ROR of `rd` by the immediate amount, with rn = 0. -/
def Obligations.SelfRotateIsRor : Prop :=
  ∀ w : Word, bits w 27 25 = 0 → bits w 24 21 = 0b1101 → bits w 19 16 = 0 → bits w 6 4 = 0b110 →
    bits w 3 0 = bits w 15 12 →
    let i := decodeWord w
    i.kind = .ror ∧ i.rd?.map BitVec.toNat = some (bits w 15 12) ∧ i.rm? = i.rd? ∧ i.rn? = some 0#4 ∧
    i.shiftType? = some .ror ∧ i.shiftAmount?.map BitVec.toNat = some (bits w 11 7)

/-- R66: a class 3 word is LDR if bit 20 is 1 and STR otherwise, with these fields; bits 25 to 21 do not matter. -/
def Obligations.LoadStoreWordFields : Prop :=
  ∀ w : Word, bits w 27 26 = 1 →
    ∃ (cond : Cond) (rn rd : RegNum) (offset : BitVec 12),
      decodeWord w = (if bits w 20 20 = 1 then .ldr cond rn rd offset else .str cond rn rd offset) ∧
      cond.toNat = bits w 31 28 ∧ rn.toNat = bits w 19 16 ∧ rd.toNat = bits w 15 12 ∧ offset.toNat = bits w 11 0

/-- R67: a class 4 word is BL if bit 24 is 1 and B otherwise; the offset is the raw unsigned 24-bit field. -/
def Obligations.BranchWordFields : Prop :=
  ∀ w : Word, bits w 27 25 = 0b101 →
    ∃ (cond : Cond) (offset : BitVec 24),
      decodeWord w = (if bits w 24 24 = 1 then .bl cond offset else .b cond offset) ∧
      cond.toNat = bits w 31 28 ∧ offset.toNat = bits w 23 0

/-- R68: a word is UNKNOWN exactly when bits 27 to 25 are 100, 110 or 111; its record holds the condition and the raw
word, no operand and (D12) set_flags false. -/
def Obligations.UnknownWords : Prop :=
  ∀ w : Word,
    ((decodeWord w).kind = .unknown ↔ bits w 27 25 ∈ [0b100, 0b110, 0b111]) ∧
    ((decodeWord w).kind = .unknown →
      (∃ cond : Cond, decodeRecord w = { instr := .unknown cond, rawWord := w } ∧ cond.toNat = bits w 31 28) ∧
      (decodeWord w).rn? = none ∧ (decodeWord w).rd? = none ∧ (decodeWord w).operandSet? = none ∧
      (decodeWord w).offset? = none ∧ (decodeWord w).setFlags = false)

/-- R70 (with D12, D13): which operand fields a record has, by its format; a shift kind has rn = 0 and the shift type
it is named after; the record keeps the raw word. -/
def Obligations.RecordFieldsPresent : Prop :=
  ∀ w : Word,
    let r := decodeRecord w
    let i := r.instr
    r.rawWord = w ∧
    [i.rd?.isSome, i.rn?.isSome, i.rm?.isSome, i.rs?.isSome, i.operand2?.isSome, i.shiftType?.isSome,
      i.shiftAmount?.isSome, i.offset?.isSome] =
      (match i.format with
      | .mul  => [true, false, true, true, false, false, false, false]
      | .dpi  => [true, true, false, false, true, false, false, false]
      | .dpr  => [true, true, true, false, false, true, true, false]
      | .dprs => [true, true, true, true, false, true, false, false]
      | .ls   => [true, true, false, false, false, false, false, true]
      | .br   => [false, false, false, false, false, false, false, true]
      | .unk  => [false, false, false, false, false, false, false, false]) ∧
    (i.kind = .lsl → i.rn? = some 0#4 ∧ i.shiftType? = some .lsl) ∧
    (i.kind = .lsr → i.rn? = some 0#4 ∧ i.shiftType? = some .lsr) ∧
    (i.kind = .asr → i.rn? = some 0#4 ∧ i.shiftType? = some .asr) ∧
    (i.kind = .ror → i.rn? = some 0#4 ∧ i.shiftType? = some .ror) ∧
    (i.format ∈ [.ls, .br, .unk] → i.setFlags = false)

/-- R78: no record has both shift descriptors but MUL, whose `rs` is a multiplier; a resolved immediate stands alone;
a register operand carries exactly one amount. -/
def Obligations.ShiftDescriptorsExclusive : Prop :=
  ∀ w : Word,
    let i := decodeWord w
    (i.shiftAmount?.isSome = true → i.rs? = none) ∧
    (i.operand2?.isSome = true → i.rm? = none ∧ i.shiftType? = none ∧ i.shiftAmount? = none ∧ i.rs? = none) ∧
    (i.kind ≠ .mul → i.rm?.isSome = true → i.shiftType?.isSome = true ∧ i.shiftAmount?.isSome ≠ i.rs?.isSome) ∧
    (i.kind = .mul → i.rs?.isSome = true ∧ i.shiftAmount? = none ∧ i.shiftType? = none)

/-- R72: the bits a format does not examine do not change the decoded instruction; bit 7 of a register-shift word is
such a bit unless it makes the word a multiply (R58). `flip` holds the bits that are flipped. -/
def Obligations.IgnoredBitsDoNotMatter : Prop :=
  ∀ w flip : Word,
    ((decodeWord w).format = .mul → flip &&& ~~~0x00E0F000#32 = 0#32 → decodeWord (w ^^^ flip) = decodeWord w) ∧
    ((decodeWord w).format = .dprs → flip &&& ~~~0x00000080#32 = 0#32 →
      ¬ (bits (w ^^^ flip) 27 24 = 0 ∧ bits (w ^^^ flip) 7 4 = 9) → decodeWord (w ^^^ flip) = decodeWord w) ∧
    ((decodeWord w).format = .ls → flip &&& ~~~0x03E00000#32 = 0#32 → decodeWord (w ^^^ flip) = decodeWord w) ∧
    ((decodeWord w).format = .unk → flip &&& ~~~0x01FFFFFF#32 = 0#32 → decodeWord (w ^^^ flip) = decodeWord w)

/-- R71, R78: every word decodes to a well-formed instruction. -/
def Obligations.DecodeGivesWellFormed : Prop :=
  ∀ w : Word, (decodeWord w).wellFormed = true

/-- Decode and encode agree: every well-formed instruction's word decodes to it. The encoder's choice of the ignored
bits is the model's (log entry 17). -/
def Obligations.DecodeEncodeRoundTrip : Prop :=
  ∀ i : Instr, i.wellFormed = true → decodeWord (encode i) = i

/-- R75: for every word both ways to decode from spec/opcode_table.json pick the same one of its rows, and the decoder
gives that row's kind and format. -/
def Obligations.DecoderFollowsOpcodeTable : Prop :=
  ∀ w : Word, ∃ row, firstRow? opcodeTable w = some row ∧ selectedRows opcodeTable w = [row] ∧
    (decodeWord w).kind = row.kind ∧ (decodeWord w).format = row.format

/-! ## The stream -/

/-- R32 (big-endian, R30): the words a byte stream is cut into; the last `m mod 4` bytes give none. -/
def Obligations.StreamCutIntoWords : Prop :=
  ∀ b : List Byte, (cutWords b).length = b.length / 4 ∧
    ∀ i, i < b.length / 4 → (cutWords b)[i]?.map BitVec.toNat =
      some ((b.getD (4 * i) 0#8).toNat * 2 ^ 24 + (b.getD (4 * i + 1) 0#8).toNat * 2 ^ 16 +
        (b.getD (4 * i + 2) 0#8).toNat * 2 ^ 8 + (b.getD (4 * i + 3) 0#8).toNat)

/-! ## Operand 2 and the barrel shifter -/

/-- R87 to R90: the four shifts as arithmetic on numbers. -/
def Obligations.BarrelShifterResults : Prop :=
  ∀ (v : Word) (n : Nat), n ≤ 31 →
    (shift .lsl v n).toNat = v.toNat * 2 ^ n % 2 ^ 32 ∧
    (shift .lsr v n).toNat = v.toNat / 2 ^ n ∧
    ((shift .asr v n).toNat : Int) = sext32 v.toNat / 2 ^ n % 2 ^ 32 ∧
    (shift .ror v n).toNat = ror32Nat v.toNat n

/-- R85, R86: operand 2 is the resolved immediate if there is one, else `x[rm]` shifted by the immediate amount, by
the low five bits of `x[rs]`, or by 0. -/
def Obligations.Operand2Resolution : Prop :=
  ∀ s : State,
    (∀ v, s.operand2 (.imm v) = v) ∧
    (∀ rm ty n, s.operand2 (.reg rm ty (.imm n)) = shift ty (s.reg rm) n.toNat) ∧
    (∀ rm ty rs, s.operand2 (.reg rm ty (.reg rs)) = shift ty (s.reg rm) (bits (s.reg rs) 4 0)) ∧
    (∀ rm ty, s.operand2 (.reg rm ty .none) = s.reg rm)

/-! ## Memory -/

/-- R36: MemRead is little-endian. -/
def Obligations.MemReadLittleEndian : Prop :=
  ∀ (m : Memory) (ea : Nat), (m.readWord ea).toNat =
    (m.read ea).toNat + (m.read (ea + 1)).toNat * 2 ^ 8 + (m.read (ea + 2)).toNat * 2 ^ 16 +
      (m.read (ea + 3)).toNat * 2 ^ 24

/-- R37: MemWrite sets the four bytes from the word's least significant byte on and leaves every other byte as it was.
The canonical form is the invariant of `StepKeepsInvariant`. -/
def Obligations.MemWriteLittleEndian : Prop :=
  ∀ (m : Memory) (ea : Nat) (v : Word), m.wf = true →
    ((m.writeWord ea v).read ea).toNat = bits v 7 0 ∧
    ((m.writeWord ea v).read (ea + 1)).toNat = bits v 15 8 ∧
    ((m.writeWord ea v).read (ea + 2)).toNat = bits v 23 16 ∧
    ((m.writeWord ea v).read (ea + 3)).toNat = bits v 31 24 ∧
    (∀ a, a < ea ∨ ea + 4 ≤ a → (m.writeWord ea v).read a = m.read a)

/-- R34: an access is accepted exactly when all four bytes lie inside data memory: at MEM_SIZE - 4 it is, at
MEM_SIZE - 3 it is not. -/
def Obligations.BoundsCheck : Prop :=
  ∀ s : State, (∀ ea, s.accepts ea = true ↔ ea + 4 ≤ s.params.memSize) ∧
    (4 ≤ s.params.memSize →
      s.accepts (s.params.memSize - 4) = true ∧ s.accepts (s.params.memSize - 3) = false) ∧
    (s.params.memSize < 4 → ∀ ea, s.accepts ea = false)

/-- R33: base plus unsigned offset, reduced modulo 2^32 under ADDR_WRAP (the default, D6) and not otherwise; the
settings agree below 2^32. -/
def Obligations.EffectiveAddressValue : Prop :=
  ∀ (s : State) (rn : RegNum) (offset : BitVec 12),
    let sum := (s.reg rn).toNat + offset.toNat
    (s.params.addrWrap = true → s.effectiveAddress rn offset = sum % 2 ^ 32) ∧
    (s.params.addrWrap = false → s.effectiveAddress rn offset = sum) ∧
    (sum < 2 ^ 32 → s.effectiveAddress rn offset = sum)

/-! ## What each instruction does -/

/-- MOV (R100). rd = 15 is written like any register (D4); N and Z are of the 32-bit value (D8); the outcome's name is
D15's. -/
def Obligations.MovEffect : Prop :=
  ∀ cond setFlags rn rd op2 s, GateOpen cond s →
    ∃ t, exec (.mov cond setFlags rn rd op2) s = .next t ∧
      t.reg rd = s.operand2 op2 ∧ WritesOnly rd s t ∧
      (setFlags = false → t.flags = s.flags) ∧
      (setFlags = true → FlagsNZFrom (s.operand2 op2).toNat s t)

/-- ADD and ADDEQ (R101, R102, R93); D4, D8 and D15 as in `MovEffect`. -/
def Obligations.AddEffect : Prop :=
  (∀ cond setFlags rn rd op2 s, GateOpen cond s →
    ∃ t, exec (.add cond setFlags rn rd op2) s = .next t ∧
      (t.reg rd).toNat = ((s.reg rn).toNat + (s.operand2 op2).toNat) % 2 ^ 32 ∧ WritesOnly rd s t ∧
      (setFlags = false → t.flags = s.flags) ∧
      (setFlags = true → FlagsAddFrom (s.reg rn).toNat (s.operand2 op2).toNat t)) ∧
  (∀ setFlags rn rd op2 s, s.flags.z = true →
    ∃ t, exec (.addeq setFlags rn rd op2) s = .next t ∧
      (t.reg rd).toNat = ((s.reg rn).toNat + (s.operand2 op2).toNat) % 2 ^ 32 ∧ WritesOnly rd s t ∧
      (setFlags = false → t.flags = s.flags) ∧
      (setFlags = true → FlagsAddFrom (s.reg rn).toNat (s.operand2 op2).toNat t))

/-- SUB and SUBNE (R103, R104, R94); D4, D8 and D15 as in `MovEffect`. -/
def Obligations.SubEffect : Prop :=
  (∀ cond setFlags rn rd op2 s, GateOpen cond s →
    ∃ t, exec (.sub cond setFlags rn rd op2) s = .next t ∧
      (t.reg rd).toNat = subMod (s.reg rn).toNat (s.operand2 op2).toNat ∧ WritesOnly rd s t ∧
      (setFlags = false → t.flags = s.flags) ∧
      (setFlags = true → FlagsSubFrom (s.reg rn).toNat (s.operand2 op2).toNat t)) ∧
  (∀ setFlags rn rd op2 s, s.flags.z = false →
    ∃ t, exec (.subne setFlags rn rd op2) s = .next t ∧
      (t.reg rd).toNat = subMod (s.reg rn).toNat (s.operand2 op2).toNat ∧ WritesOnly rd s t ∧
      (setFlags = false → t.flags = s.flags) ∧
      (setFlags = true → FlagsSubFrom (s.reg rn).toNat (s.operand2 op2).toNat t))

/-- CMP (R105, R94): the flags of the subtraction, always; no register is written, whatever `rd` is. D8 and D15 as in
`MovEffect`. -/
def Obligations.CmpEffect : Prop :=
  ∀ cond rn rd op2 s, GateOpen cond s →
    ∃ t, exec (.cmp cond rn rd op2) s = .next t ∧
      FlagsSubFrom (s.reg rn).toNat (s.operand2 op2).toNat t ∧
      SameRegs s t ∧ SameMem s t ∧ SameDriver s t ∧ t.draws = s.draws ∧ t.outcome = some .executed

/-- AND and ORR (R106, R107), bit by bit; C and V keep their values. D4, D8 and D15 as in `MovEffect`. -/
def Obligations.LogicalEffect : Prop :=
  ∀ cond setFlags rn rd op2 s, GateOpen cond s →
    (∃ t, exec (.and cond setFlags rn rd op2) s = .next t ∧
      (∀ k, (t.reg rd).getLsbD k = ((s.reg rn).getLsbD k && (s.operand2 op2).getLsbD k)) ∧ WritesOnly rd s t ∧
      (setFlags = false → t.flags = s.flags) ∧ (setFlags = true → FlagsNZFrom (t.reg rd).toNat s t)) ∧
    (∃ t, exec (.orr cond setFlags rn rd op2) s = .next t ∧
      (∀ k, (t.reg rd).getLsbD k = ((s.reg rn).getLsbD k || (s.operand2 op2).getLsbD k)) ∧ WritesOnly rd s t ∧
      (setFlags = false → t.flags = s.flags) ∧ (setFlags = true → FlagsNZFrom (t.reg rd).toNat s t))

/-- LSL, LSR, ASR, ROR (R108 to R111): `n` is the amount of R86; C and V keep their values (R91). D4, D8 and D15 as in
`MovEffect`. -/
def Obligations.ShiftKindsEffect : Prop :=
  ∀ cond setFlags rd rm amount s, GateOpen cond s →
    let v := (s.reg rm).toNat
    let n := s.shiftAmount amount
    (∃ t, exec (.lsl cond setFlags rd rm amount) s = .next t ∧
      (t.reg rd).toNat = v * 2 ^ n % 2 ^ 32 ∧ WritesOnly rd s t ∧
      (setFlags = false → t.flags = s.flags) ∧ (setFlags = true → FlagsNZFrom (t.reg rd).toNat s t)) ∧
    (∃ t, exec (.lsr cond setFlags rd rm amount) s = .next t ∧
      (t.reg rd).toNat = v / 2 ^ n ∧ WritesOnly rd s t ∧
      (setFlags = false → t.flags = s.flags) ∧ (setFlags = true → FlagsNZFrom (t.reg rd).toNat s t)) ∧
    (∃ t, exec (.asr cond setFlags rd rm amount) s = .next t ∧
      ((t.reg rd).toNat : Int) = sext32 v / 2 ^ n % 2 ^ 32 ∧ WritesOnly rd s t ∧
      (setFlags = false → t.flags = s.flags) ∧ (setFlags = true → FlagsNZFrom (t.reg rd).toNat s t)) ∧
    (∃ t, exec (.ror cond setFlags rd rm amount) s = .next t ∧
      (t.reg rd).toNat = ror32Nat v n ∧ WritesOnly rd s t ∧
      (setFlags = false → t.flags = s.flags) ∧ (setFlags = true → FlagsNZFrom (t.reg rd).toNat s t))

/-- MUL (R112): the low 32 bits of the product; C and V are kept under MULS_CV = preserve (the spec's default, D7) and
unconstrained under `any` (log entries 8, 9). D4, D8 and D15 as in `MovEffect`. -/
def Obligations.MulEffect : Prop :=
  ∀ cond setFlags rd rs rm s, GateOpen cond s →
    ∃ t, exec (.mul cond setFlags rd rs rm) s = .next t ∧
      let res := (s.reg rm).toNat * (s.reg rs).toNat % 2 ^ 32
      (t.reg rd).toNat = res ∧ SameRegsBut rd s t ∧ SameMem s t ∧ SameDriver s t ∧ t.outcome = some .executed ∧
      (setFlags = false → t.flags = s.flags ∧ t.draws = s.draws) ∧
      (setFlags = true → t.flags.n = bit31 res ∧ t.flags.z = decide (res = 0)) ∧
      (s.params.mulsCV = .preserve → t.flags.c = s.flags.c ∧ t.flags.v = s.flags.v ∧ t.draws = s.draws)

/-- LDR whose address is accepted (R113): the four bytes at the effective address, little-endian; no flag; the base is
not written back. The address needs no alignment (D5); D4 and D15 as in `MovEffect`. -/
def Obligations.LdrEffect : Prop :=
  ∀ cond rn rd offset s, GateOpen cond s →
    let ea := s.effectiveAddress rn offset
    ea + 4 ≤ s.params.memSize →
    ∃ t, exec (.ldr cond rn rd offset) s = .next t ∧
      (t.reg rd).toNat = (s.mem.read ea).toNat + (s.mem.read (ea + 1)).toNat * 2 ^ 8 +
        (s.mem.read (ea + 2)).toNat * 2 ^ 16 + (s.mem.read (ea + 3)).toNat * 2 ^ 24 ∧
      WritesOnly rd s t ∧ t.flags = s.flags

/-- STR whose address is accepted (R114): the four bytes at the effective address become `x[rd]`, little-endian, and
nothing else changes. The canonical form is the invariant of `StepKeepsInvariant`. D5 and D15 as in `LdrEffect`. -/
def Obligations.StrEffect : Prop :=
  ∀ cond rn rd offset s, GateOpen cond s → s.mem.wf = true →
    let ea := s.effectiveAddress rn offset
    ea + 4 ≤ s.params.memSize →
    ∃ t, exec (.str cond rn rd offset) s = .next t ∧
      (t.mem.read ea).toNat = bits (s.reg rd) 7 0 ∧ (t.mem.read (ea + 1)).toNat = bits (s.reg rd) 15 8 ∧
      (t.mem.read (ea + 2)).toNat = bits (s.reg rd) 23 16 ∧ (t.mem.read (ea + 3)).toNat = bits (s.reg rd) 31 24 ∧
      SameMemBut ea s t ∧ SameRegs s t ∧ t.flags = s.flags ∧ SameDriver s t ∧ t.draws = s.draws ∧
      t.outcome = some .executed

/-- R35: an LDR or STR whose address fails the bounds check has no effect, not even in part, and is reported; the
outcome's name is D15's. -/
def Obligations.RejectedAccessHasNoEffect : Prop :=
  ∀ cond rn rd offset s, GateOpen cond s → ¬ s.effectiveAddress rn offset + 4 ≤ s.params.memSize →
    (∃ t, exec (.ldr cond rn rd offset) s = .next t ∧ NoEffect s t ∧ t.outcome = some .rejectedOob) ∧
    (∃ t, exec (.str cond rn rd offset) s = .next t ∧ NoEffect s t ∧ t.outcome = some .rejectedOob)

/-- B and BL (R115, R116): no register (14 and 15 among them), flag, memory or fetch-position change. D15 names the
outcome. -/
def Obligations.BranchesAreInert : Prop :=
  ∀ cond offset s, GateOpen cond s →
    (∃ t, exec (.b cond offset) s = .next t ∧ NoEffect s t ∧ t.outcome = some .nopBranch) ∧
    (∃ t, exec (.bl cond offset) s = .next t ∧ NoEffect s t ∧ t.outcome = some .nopBranch)

/-- The three UNKNOWN kinds (R117 to R119): no effect, even with `set_flags`. D15 names the outcome. -/
def Obligations.UnknownKindsAreInert : Prop :=
  ∀ cond setFlags rn rd rm value ty amount s, GateOpen cond s →
    (∃ t, exec (.unknown cond) s = .next t ∧ NoEffect s t ∧ t.outcome = some .nopUnknown) ∧
    (∃ t, exec (.unknownDpImm cond setFlags rn rd value) s = .next t ∧ NoEffect s t ∧
      t.outcome = some .nopUnknown) ∧
    (∃ t, exec (.unknownDpReg cond setFlags rn rd rm ty amount) s = .next t ∧ NoEffect s t ∧
      t.outcome = some .nopUnknown)

/-! ## Rules over all instructions -/

/-- R82, R83, R84: the gate is on the record's condition code, for every kind (D2); a failed gate leaves everything as
it was and is reported, and nothing else is reported so. D15 names the outcome. -/
def Obligations.FailedGateHasNoEffect : Prop :=
  ∀ i s, ∃ t, exec i s = .next t ∧
    (¬ GateOpen i.cond s → NoEffect s t ∧ t.outcome = some .skippedCond) ∧
    (GateOpen i.cond s → t.outcome ≠ some .skippedCond)

/-- R96, R128: every instruction executes to a next state and reports one of five outcomes, the gate tested before the
kind and the kind before the address. D15 names the outcomes. -/
def Obligations.OutcomeOfEveryInstruction : Prop :=
  ∀ i s, ∃ t, exec i s = .next t ∧
    (¬ GateOpen i.cond s → t.outcome = some .skippedCond) ∧
    (GateOpen i.cond s →
      (i.kind ∈ [.b, .bl] → t.outcome = some .nopBranch) ∧
      (i.kind ∈ [.unknown, .unknownDpImm, .unknownDpReg] → t.outcome = some .nopUnknown) ∧
      (∀ cond rn rd offset, i = .ldr cond rn rd offset ∨ i = .str cond rn rd offset →
        (s.effectiveAddress rn offset + 4 ≤ s.params.memSize → t.outcome = some .executed) ∧
        (¬ s.effectiveAddress rn offset + 4 ≤ s.params.memSize → t.outcome = some .rejectedOob)) ∧
      (i.kind ∈ [.mov, .add, .addeq, .sub, .subne, .cmp, .and, .orr, .lsl, .lsr, .asr, .ror, .mul] →
        t.outcome = some .executed))

/-- R15 (with D4): an instruction writes no register but its `rd`, and CMP, STR, B, BL and the UNKNOWN kinds write
none; so register 15 is written only by an instruction that names it. -/
def Obligations.RegistersWrittenOnlyByName : Prop :=
  ∀ i s t, exec i s = .next t →
    (∀ r, i.rd? ≠ some r → t.reg r = s.reg r) ∧
    (i.kind ∈ [.cmp, .str, .b, .bl, .unknown, .unknownDpImm, .unknownDpReg] → SameRegs s t)

/-- R19 (with D7 for MUL): flags change only under `set_flags`; the UNKNOWN kinds never write them; the N/Z-only kinds
leave C and V, and so does MUL under MULS_CV = preserve (log entry 8). Under MULS_CV = any a flag-setting MUL may
change C and V (R112; log entry 9), and nothing is claimed of them. -/
def Obligations.FlagsWrittenOnlyOnRequest : Prop :=
  ∀ i s t, exec i s = .next t →
    (i.setFlags = false → t.flags = s.flags) ∧
    (i.kind ∈ [.ldr, .str, .b, .bl, .unknown, .unknownDpImm, .unknownDpReg] → t.flags = s.flags) ∧
    (i.kind ∈ [.mov, .and, .orr, .lsl, .lsr, .asr, .ror] → t.flags.c = s.flags.c ∧ t.flags.v = s.flags.v) ∧
    (i.kind = .mul → s.params.mulsCV = .preserve → t.flags.c = s.flags.c ∧ t.flags.v = s.flags.v)

/-- R22, R39: only STR writes data memory and only LDR reads it: any other instruction does the same whatever memory
holds. -/
def Obligations.MemoryReachedOnlyByLoadStore : Prop :=
  ∀ i s t, exec i s = .next t →
    (i.kind ≠ .str → t.mem = s.mem) ∧
    (i.kind ≠ .str → i.kind ≠ .ldr → ∀ m, exec i (s.setMem m) = .next (t.setMem m))

/-- R19: flag Z is the only flag that is read: two states that differ in N, C and V step to states with the same
registers, memory, flag Z, fetch position, record and outcome. -/
def Obligations.OnlyFlagZIsRead : Prop :=
  ∀ (s : State) (n c v : Bool),
    let s' : State := { s with flags := { s.flags with n := n, c := c, v := v } }
    (step s = .fault .runEnded ∧ step s' = .fault .runEnded) ∨
    ∃ t t', step s = .next t ∧ step s' = .next t' ∧ t'.regs = t.regs ∧ t'.mem = t.mem ∧ t'.flags.z = t.flags.z ∧
      t'.pos = t.pos ∧ t'.record = t.record ∧ t'.outcome = t.outcome

/-- R24, R96: what the record and outcome interfaces last carried is read by no step. -/
def Obligations.OutputsAreNeverRead : Prop :=
  ∀ (s : State) (r : Option Record) (o : Option StepOutcome),
    step { s with record := r, outcome := o } = step s

/-- R43 (a): a load right after an accepted store at the same address returns the stored word. -/
def Obligations.LoadAfterStoreReturnsIt : Prop :=
  ∀ cond rn rd rd' offset s t, GateOpen cond s → s.mem.wf = true →
    s.effectiveAddress rn offset + 4 ≤ s.params.memSize →
    exec (.str cond rn rd offset) s = .next t →
    ∃ u, exec (.ldr cond rn rd' offset) t = .next u ∧ u.reg rd' = s.reg rd

/-- R93, R94: V after a flag-setting ADD or SUB says that the exact signed result does not fit 32 bits, and C that the
exact unsigned sum does not, or that the exact difference is not negative. N, Z and the sign are D8's. -/
def Obligations.OverflowFlagsMeanOverflow : Prop :=
  ∀ a b : Word,
    ((flagsAdd a b).v = true ↔ ¬ (-2 ^ 31 ≤ a.toInt + b.toInt ∧ a.toInt + b.toInt < 2 ^ 31)) ∧
    ((flagsAdd a b).c = true ↔ (a + b).toNat ≠ a.toNat + b.toNat) ∧
    ((flagsSub a b).v = true ↔ ¬ (-2 ^ 31 ≤ a.toInt - b.toInt ∧ a.toInt - b.toInt < 2 ^ 31)) ∧
    ((flagsSub a b).c = true ↔ ((a - b).toNat : Int) = (a.toNat : Int) - (b.toNat : Int))

/-! ## Reset, step and run -/

/-- R27 at the spec's defaults (D9, D10, D11; log entries 4, 5, 6): every register 0, the flags 0, every byte of memory
0, MEM_SIZE 1024, position 0; the stream is empty, since no program is placed (log entry 1). -/
def Obligations.ResetValues : Prop :=
  (∀ r, State.reset.reg r = 0#32) ∧
  State.reset.flags = { n := false, z := false, c := false, v := false } ∧
  (∀ a, State.reset.mem.read a = 0#8) ∧
  State.reset.params = { memSize := 1024, addrWrap := true, mulsCV := .preserve } ∧
  State.reset.pos = 0 ∧ State.reset.stream = [] ∧ State.reset.record = none ∧ State.reset.outcome = none

/-- R27, R137: the created state is the parameters': registers, flags, every byte of memory below MEM_SIZE (a byte that
INIT_MEM does not give is 0, D10), position 0; and it meets the invariant. -/
def Obligations.CreatedStateIsItsParameters : Prop :=
  ∀ (params : Params) (regs : Vector Word 16) (flags : Flags) (mem stream : List Byte),
    let s := State.create params regs flags mem stream
    (∀ r : RegNum, s.reg r = regs[r.toNat]'r.isLt) ∧ s.flags = flags ∧
    (∀ a, a < params.memSize → s.mem.read a = mem.getD a 0#8) ∧
    s.params = params ∧ s.stream = stream ∧ s.pos = 0 ∧ s.Inv

/-- The invariant holds at reset. -/
def Obligations.ResetMeetsInvariant : Prop := State.reset.Inv

/-- R26, R22, R17: every step keeps the invariant. -/
def Obligations.StepKeepsInvariant : Prop :=
  ∀ s t : State, s.Inv → step s = .next t → t.Inv

/-- A step runs the decoded instruction: when the four bytes at the fetch position are those of a word that decodes to
`i`, the step is `exec i` of the state with the record shown and the position advanced by one word (R17, R79). -/
def Obligations.StepRunsDecodedInstruction : Prop :=
  ∀ (s : State) (b0 b1 b2 b3 : Byte) (rest : List Byte) (i : Instr),
    s.stream.drop (4 * s.pos) = b0 :: b1 :: b2 :: b3 :: rest →
    decodeWord (wordOfBigEndian b0 b1 b2 b3) = i →
    step s = exec i { s with
      record := some { instr := i, rawWord := wordOfBigEndian b0 b1 b2 b3 }, pos := s.pos + 1 }

/-- R17: while a word is left, a step completes, shows the record of the word at the fetch position, and advances the
position by one word, whatever the step did; the stream and the parameters do not change; after the last word there is
no step (R141). That the word is executed is `StepRunsDecodedInstruction`'s. That stream and position (log entry 1), the
parameters (log entry 3) and the shown record (log entry 10) stand in State is the model's choice. -/
def Obligations.StepTakesWordsInOrder : Prop :=
  ∀ s : State,
    (∀ w, (cutWords s.stream)[s.pos]? = some w →
      ∃ t, step s = .next t ∧ t.record = some (decodeRecord w) ∧ t.pos = s.pos + 1 ∧ t.stream = s.stream ∧
        t.params = s.params) ∧
    ((cutWords s.stream)[s.pos]? = none → ∀ t, step s ≠ .next t)

/-- R79, R126, R141: the one stop is the end of the run, and it is where the stream has no complete word left. That
`step` answers the fault `runEnded` there is the model's choice (log entry 2). -/
def Obligations.StepStopsExactlyAtRunEnd : Prop :=
  ∀ s : State, (step s = .fault .runEnded ↔ s.runOver) ∧ (¬ s.runOver → ∃ t, step s = .next t)

/-- R141, R142: a run takes exactly one step per complete word of the stream that is left, and then ends; no
instruction ends it early or makes it longer. -/
def Obligations.RunTakesOneStepPerWord : Prop :=
  ∀ s : State, s.pos ≤ s.stream.length / 4 →
    (∃ t, stepTimes (s.stream.length / 4 - s.pos) s = .next t ∧ t.pos = s.stream.length / 4 ∧ t.stream = s.stream) ∧
    stepTimes (s.stream.length / 4 - s.pos + 1) s = .fault .runEnded

/-- R81: steps that fetch from the stream are the run over the words the stream is cut into. -/
def Obligations.RunIsRunOverCutWords : Prop :=
  ∀ (s : State) (k : Nat), s.pos + k ≤ s.stream.length / 4 →
    stepTimes k s = runWords (((cutWords s.stream).drop s.pos).take k) s

/-- R141, R147: a run delivers one triple per word, and the j-th is the record of the j-th word, the outcome of its
step and the snapshot after it. -/
def Obligations.RunDeliversTriples : Prop :=
  ∀ (s : State) (j : Nat), s.pos + j < s.stream.length / 4 →
    (runTriples ((cutWords s.stream).drop s.pos) s).length = s.stream.length / 4 - s.pos ∧
    ∃ w t, (cutWords s.stream)[s.pos + j]? = some w ∧ stepTimes (j + 1) s = .next t ∧
      (runTriples ((cutWords s.stream).drop s.pos) s)[j]? = some (decodeRecord w, t.outcome, t.snapshot) ∧
      t.outcome.isSome = true
end

