-- ==== Sys2Proof/Laws/Memory.lean ====
section
/-! SUPPORT. Memory: read after write, and that every memory operation keeps the canonical form and the bound. -/

namespace Sys2Proof.Machine

theorem Memory.wfAbove_mono {lo : Option Nat} {hi : Nat} {m : Memory} (h : Memory.wfAbove (some hi) m = true)
    (hlo : lo.all (· ≤ hi) = true) : Memory.wfAbove lo m = true := by
  cases m with
  | nil => rfl
  | cons c rest =>
    obtain ⟨x, y⟩ := c
    cases lo with
    | none => simp_all [Memory.wfAbove]
    | some k =>
      simp only [Memory.wfAbove, Option.all_some, Bool.and_eq_true, decide_eq_true_eq] at h hlo ⊢
      exact ⟨⟨by omega, h.1.2⟩, h.2⟩

/-- An address at or below the bound of a canonical memory reads 0. -/
theorem Memory.read_of_le {m : Memory} {hi a : Nat} (h : Memory.wfAbove (some hi) m = true) (ha : a ≤ hi) :
    m.read a = 0#8 := by
  induction m generalizing hi with
  | nil => rfl
  | cons c rest ih =>
    obtain ⟨x, y⟩ := c
    simp only [Memory.wfAbove, Option.all_some, Bool.and_eq_true, decide_eq_true_eq] at h
    have hx : x ≠ a := by omega
    simp only [Memory.read, hx, if_false]
    exact ih h.2 (by omega)

theorem Memory.wfAbove_write {m : Memory} {lo : Option Nat} {a : Nat} {b : Byte}
    (h : Memory.wfAbove lo m = true) (ha : lo.all (· < a) = true) : Memory.wfAbove lo (m.write a b) = true := by
  induction m generalizing lo with
  | nil => by_cases hb : b = 0#8 <;> simp_all [Memory.write, Memory.wfAbove]
  | cons c rest ih =>
    obtain ⟨x, y⟩ := c
    simp only [Memory.wfAbove, Bool.and_eq_true] at h
    simp only [Memory.write]
    split
    · by_cases hb : b = 0#8 <;> simp_all [Memory.wfAbove]
    · split
      · rename_i hax
        subst hax
        by_cases hb : b = 0#8
        · simp only [hb, if_true]
          refine Memory.wfAbove_mono h.2 ?_
          cases lo <;> simp_all; omega
        · simp_all [Memory.wfAbove]
      · rename_i hlt hne
        simp only [Memory.wfAbove, Bool.and_eq_true]
        exact ⟨h.1, ih h.2 (by simp only [Option.all_some, decide_eq_true_eq]; omega)⟩

/-- Writing a byte keeps the canonical form. -/
theorem Memory.wf_write {m : Memory} (a : Nat) (b : Byte) (h : m.wf = true) : (m.write a b).wf = true :=
  Memory.wfAbove_write h rfl

/-- Reading back the byte just written. -/
theorem Memory.read_write_same {m : Memory} {lo : Option Nat} (h : Memory.wfAbove lo m = true) (a : Nat) (b : Byte) :
    (m.write a b).read a = b := by
  induction m generalizing lo with
  | nil => by_cases hb : b = 0#8 <;> simp [Memory.write, Memory.read, hb]
  | cons c rest ih =>
    obtain ⟨x, y⟩ := c
    simp only [Memory.wfAbove, Bool.and_eq_true] at h
    simp only [Memory.write]
    split
    · rename_i hlt
      by_cases hb : b = 0#8
      · have hx : x ≠ a := by omega
        simp only [hb, if_true, Memory.read, hx, if_false]
        exact Memory.read_of_le h.2 (by omega)
      · simp [hb, Memory.read]
    · split
      · rename_i hax
        subst hax
        by_cases hb : b = 0#8
        · simp only [hb, if_true]
          exact Memory.read_of_le h.2 (Nat.le_refl _)
        · simp [hb, Memory.read]
      · rename_i hlt hne
        have hx : x ≠ a := fun e => hne e.symm
        simp only [Memory.read, hx, if_false]
        exact ih h.2

/-- A write leaves every other address as it was; no canonical form is needed. -/
theorem Memory.read_write_of_ne (m : Memory) {a a' : Nat} (b : Byte) (h : a' ≠ a) :
    (m.write a b).read a' = m.read a' := by
  induction m with
  | nil => by_cases hb : b = 0#8 <;> simp [Memory.write, Memory.read, hb, h.symm]
  | cons c rest ih =>
    obtain ⟨x, y⟩ := c
    simp only [Memory.write]
    split
    · by_cases hb : b = 0#8 <;> simp [hb, Memory.read, h.symm]
    · split
      · rename_i hax
        subst hax
        by_cases hb : b = 0#8 <;> simp [hb, Memory.read, h.symm]
      · simp only [Memory.read, ih]

theorem Memory.below_write {m : Memory} {size a : Nat} (b : Byte) (h : m.below size = true) (ha : a < size) :
    (m.write a b).below size = true := by
  have ha' : decide (a < size) = true := decide_eq_true ha
  induction m with
  | nil => by_cases hb : b = 0#8 <;> simp [Memory.write, Memory.below, hb, ha]
  | cons c rest ih =>
    obtain ⟨x, y⟩ := c
    simp only [Memory.below, List.all_cons, Bool.and_eq_true] at h ih ⊢
    simp only [Memory.write]
    split
    · by_cases hb : b = 0#8 <;> simp only [hb, if_true, if_false, List.all_cons, h.1, h.2, ha', Bool.and_self]
    · split
      · by_cases hb : b = 0#8 <;> simp only [hb, if_true, if_false, List.all_cons, h.2, ha', Bool.and_self]
      · simp only [List.all_cons, Bool.and_eq_true]
        exact ⟨h.1, ih h.2⟩

/-- Writing a word keeps the canonical form. -/
theorem Memory.wf_writeWord {m : Memory} (ea : Nat) (v : Word) (h : m.wf = true) : (m.writeWord ea v).wf = true :=
  Memory.wf_write _ _ (Memory.wf_write _ _ (Memory.wf_write _ _ (Memory.wf_write _ _ h)))

/-- Writing a word inside memory lists no address at or above the size. -/
theorem Memory.below_writeWord {m : Memory} {size ea : Nat} (v : Word) (h : m.below size = true)
    (ha : ea + 4 ≤ size) : (m.writeWord ea v).below size = true :=
  Memory.below_write _ (Memory.below_write _ (Memory.below_write _ (Memory.below_write _ h (by omega)) (by omega))
    (by omega)) (by omega)

/-- The memory made of given bytes is canonical. -/
theorem Memory.wfAbove_ofBytesFrom (bytes : List Byte) (a : Nat) (lo : Option Nat) (h : lo.all (· < a) = true) :
    Memory.wfAbove lo (Memory.ofBytesFrom a bytes) = true := by
  induction bytes generalizing a lo with
  | nil => rfl
  | cons b rest ih =>
    simp only [Memory.ofBytesFrom]
    by_cases hb : b = 0#8
    · simp only [hb, if_true]
      refine ih (a + 1) lo ?_
      cases lo <;> simp_all; omega
    · simp only [hb, if_false, Memory.wfAbove, Bool.and_eq_true]
      exact ⟨⟨h, by simp [hb]⟩, ih (a + 1) (some a) (by simp)⟩

theorem State.reset_mem_wf : State.reset.mem.wf = true := rfl

end Sys2Proof.Machine
end

