-- ==== Sys2Proof/Laws/State.lean ====
section
/-! SUPPORT. One small lemma per field and update of State, so that no later proof unfolds a record update; reading
a register after each update. -/

namespace Sys2Proof.Machine

/-! ## Register write -/

@[simp] theorem State.setReg_regs (s : State) (i : RegNum) (v : Word) : (s.setReg i v).regs = s.regs.set i.toNat v i.isLt := rfl
@[simp] theorem State.setReg_flags (s : State) (i : RegNum) (v : Word) : (s.setReg i v).flags = s.flags := rfl
@[simp] theorem State.setReg_mem (s : State) (i : RegNum) (v : Word) : (s.setReg i v).mem = s.mem := rfl
@[simp] theorem State.setReg_params (s : State) (i : RegNum) (v : Word) : (s.setReg i v).params = s.params := rfl
@[simp] theorem State.setReg_stream (s : State) (i : RegNum) (v : Word) : (s.setReg i v).stream = s.stream := rfl
@[simp] theorem State.setReg_pos (s : State) (i : RegNum) (v : Word) : (s.setReg i v).pos = s.pos := rfl
@[simp] theorem State.setReg_record (s : State) (i : RegNum) (v : Word) : (s.setReg i v).record = s.record := rfl
@[simp] theorem State.setReg_outcome (s : State) (i : RegNum) (v : Word) : (s.setReg i v).outcome = s.outcome := rfl
@[simp] theorem State.setReg_draws (s : State) (i : RegNum) (v : Word) : (s.setReg i v).draws = s.draws := rfl

/-! ## Flag write -/

@[simp] theorem State.setFlagsIf_regs (s : State) (w : Bool) (f : Flags) : (s.setFlagsIf w f).regs = s.regs := by cases w <;> rfl
@[simp] theorem State.setFlagsIf_mem (s : State) (w : Bool) (f : Flags) : (s.setFlagsIf w f).mem = s.mem := by cases w <;> rfl
@[simp] theorem State.setFlagsIf_params (s : State) (w : Bool) (f : Flags) : (s.setFlagsIf w f).params = s.params := by cases w <;> rfl
@[simp] theorem State.setFlagsIf_stream (s : State) (w : Bool) (f : Flags) : (s.setFlagsIf w f).stream = s.stream := by cases w <;> rfl
@[simp] theorem State.setFlagsIf_pos (s : State) (w : Bool) (f : Flags) : (s.setFlagsIf w f).pos = s.pos := by cases w <;> rfl
@[simp] theorem State.setFlagsIf_record (s : State) (w : Bool) (f : Flags) : (s.setFlagsIf w f).record = s.record := by cases w <;> rfl
@[simp] theorem State.setFlagsIf_outcome (s : State) (w : Bool) (f : Flags) : (s.setFlagsIf w f).outcome = s.outcome := by cases w <;> rfl
@[simp] theorem State.setFlagsIf_draws (s : State) (w : Bool) (f : Flags) : (s.setFlagsIf w f).draws = s.draws := by cases w <;> rfl

@[simp] theorem State.setFlagsIf_flags (s : State) (w : Bool) (f : Flags) :
    (s.setFlagsIf w f).flags = if w then f else s.flags := by cases w <;> rfl

/-! ## Memory replacement -/

@[simp] theorem State.setMem_regs (s : State) (m : Memory) : (s.setMem m).regs = s.regs := rfl
@[simp] theorem State.setMem_flags (s : State) (m : Memory) : (s.setMem m).flags = s.flags := rfl
@[simp] theorem State.setMem_mem (s : State) (m : Memory) : (s.setMem m).mem = m := rfl
@[simp] theorem State.setMem_params (s : State) (m : Memory) : (s.setMem m).params = s.params := rfl
@[simp] theorem State.setMem_stream (s : State) (m : Memory) : (s.setMem m).stream = s.stream := rfl
@[simp] theorem State.setMem_pos (s : State) (m : Memory) : (s.setMem m).pos = s.pos := rfl
@[simp] theorem State.setMem_record (s : State) (m : Memory) : (s.setMem m).record = s.record := rfl
@[simp] theorem State.setMem_outcome (s : State) (m : Memory) : (s.setMem m).outcome = s.outcome := rfl
@[simp] theorem State.setMem_draws (s : State) (m : Memory) : (s.setMem m).draws = s.draws := rfl

/-! ## Report -/

@[simp] theorem State.report_regs (s : State) (o : StepOutcome) : (s.report o).regs = s.regs := rfl
@[simp] theorem State.report_flags (s : State) (o : StepOutcome) : (s.report o).flags = s.flags := rfl
@[simp] theorem State.report_mem (s : State) (o : StepOutcome) : (s.report o).mem = s.mem := rfl
@[simp] theorem State.report_params (s : State) (o : StepOutcome) : (s.report o).params = s.params := rfl
@[simp] theorem State.report_stream (s : State) (o : StepOutcome) : (s.report o).stream = s.stream := rfl
@[simp] theorem State.report_pos (s : State) (o : StepOutcome) : (s.report o).pos = s.pos := rfl
@[simp] theorem State.report_record (s : State) (o : StepOutcome) : (s.report o).record = s.record := rfl
@[simp] theorem State.report_outcome (s : State) (o : StepOutcome) : (s.report o).outcome = some o := rfl
@[simp] theorem State.report_draws (s : State) (o : StepOutcome) : (s.report o).draws = s.draws := rfl

/-! ## Presenting a record -/

@[simp] theorem State.present_regs (s : State) (r : Record) : (s.present r).regs = s.regs := rfl
@[simp] theorem State.present_flags (s : State) (r : Record) : (s.present r).flags = s.flags := rfl
@[simp] theorem State.present_mem (s : State) (r : Record) : (s.present r).mem = s.mem := rfl
@[simp] theorem State.present_params (s : State) (r : Record) : (s.present r).params = s.params := rfl
@[simp] theorem State.present_stream (s : State) (r : Record) : (s.present r).stream = s.stream := rfl
@[simp] theorem State.present_pos (s : State) (r : Record) : (s.present r).pos = s.pos + 1 := rfl
@[simp] theorem State.present_record (s : State) (r : Record) : (s.present r).record = some r := rfl
@[simp] theorem State.present_outcome (s : State) (r : Record) : (s.present r).outcome = s.outcome := rfl
@[simp] theorem State.present_draws (s : State) (r : Record) : (s.present r).draws = s.draws := rfl

/-! ## Placing a word in the stream -/

@[simp] theorem State.placeWord_regs (s : State) (w : Word) : (s.placeWord w).regs = s.regs := rfl
@[simp] theorem State.placeWord_flags (s : State) (w : Word) : (s.placeWord w).flags = s.flags := rfl
@[simp] theorem State.placeWord_mem (s : State) (w : Word) : (s.placeWord w).mem = s.mem := rfl
@[simp] theorem State.placeWord_params (s : State) (w : Word) : (s.placeWord w).params = s.params := rfl
@[simp] theorem State.placeWord_pos (s : State) (w : Word) : (s.placeWord w).pos = s.pos := rfl
@[simp] theorem State.placeWord_record (s : State) (w : Word) : (s.placeWord w).record = s.record := rfl
@[simp] theorem State.placeWord_outcome (s : State) (w : Word) : (s.placeWord w).outcome = s.outcome := rfl
@[simp] theorem State.placeWord_draws (s : State) (w : Word) : (s.placeWord w).draws = s.draws := rfl

/-! ## The counter of free bits -/

@[simp] theorem State.drawsAfterMul_regs (s : State) (w : Bool) : (s.drawsAfterMul w).regs = s.regs := by
  unfold State.drawsAfterMul; split <;> rfl
@[simp] theorem State.drawsAfterMul_flags (s : State) (w : Bool) : (s.drawsAfterMul w).flags = s.flags := by
  unfold State.drawsAfterMul; split <;> rfl
@[simp] theorem State.drawsAfterMul_mem (s : State) (w : Bool) : (s.drawsAfterMul w).mem = s.mem := by
  unfold State.drawsAfterMul; split <;> rfl
@[simp] theorem State.drawsAfterMul_params (s : State) (w : Bool) : (s.drawsAfterMul w).params = s.params := by
  unfold State.drawsAfterMul; split <;> rfl
@[simp] theorem State.drawsAfterMul_stream (s : State) (w : Bool) : (s.drawsAfterMul w).stream = s.stream := by
  unfold State.drawsAfterMul; split <;> rfl
@[simp] theorem State.drawsAfterMul_pos (s : State) (w : Bool) : (s.drawsAfterMul w).pos = s.pos := by
  unfold State.drawsAfterMul; split <;> rfl
@[simp] theorem State.drawsAfterMul_record (s : State) (w : Bool) : (s.drawsAfterMul w).record = s.record := by
  unfold State.drawsAfterMul; split <;> rfl
@[simp] theorem State.drawsAfterMul_outcome (s : State) (w : Bool) : (s.drawsAfterMul w).outcome = s.outcome := by
  unfold State.drawsAfterMul; split <;> rfl

@[simp] theorem State.drawsAfterMul_draws_preserve (s : State) (w : Bool) (h : s.params.mulsCV = .preserve) :
    (s.drawsAfterMul w).draws = s.draws := by
  cases w <;> simp [State.drawsAfterMul, h]

@[simp] theorem State.drawsAfterMul_draws_unwanted (s : State) : (s.drawsAfterMul false).draws = s.draws := by
  simp [State.drawsAfterMul]

/-! ## Reading a register -/

@[simp] theorem State.reg_setReg_same (s : State) (i : RegNum) (v : Word) : (s.setReg i v).reg i = v := by
  simp [State.reg]

theorem State.reg_setReg_of_ne (s : State) {i r : RegNum} (v : Word) (h : r ≠ i) :
    (s.setReg i v).reg r = s.reg r := by
  have hne : i.toNat ≠ r.toNat := fun e => h (BitVec.eq_of_toNat_eq e.symm)
  simp [State.reg, Vector.getElem_set_ne, hne]

/-- A register's value depends on the register file alone. -/
theorem State.reg_congr {s t : State} (h : t.regs = s.regs) (r : RegNum) : t.reg r = s.reg r := by
  simp [State.reg, h]

@[simp] theorem State.reg_setFlagsIf (s : State) (w : Bool) (f : Flags) (r : RegNum) : (s.setFlagsIf w f).reg r = s.reg r :=
  State.reg_congr (by simp) r

@[simp] theorem State.reg_setMem (s : State) (m : Memory) (r : RegNum) : (s.setMem m).reg r = s.reg r :=
  State.reg_congr (by simp) r

@[simp] theorem State.reg_report (s : State) (o : StepOutcome) (r : RegNum) : (s.report o).reg r = s.reg r :=
  State.reg_congr (by simp) r

@[simp] theorem State.reg_present (s : State) (x : Record) (r : RegNum) : (s.present x).reg r = s.reg r :=
  State.reg_congr (by simp) r

@[simp] theorem State.reg_drawsAfterMul (s : State) (w : Bool) (r : RegNum) : (s.drawsAfterMul w).reg r = s.reg r :=
  State.reg_congr (by simp) r

end Sys2Proof.Machine
end

