-- ==== Sys2Proof/Laws/Effects.lean ====
section
/-! SUPPORT. What each shared operation can do, said once: the gate, the register-writing effects, the access of a
load or store, a step. -/

namespace Sys2Proof.Machine

/-! ## The gate -/

/-- Under the gate either the effect happens, or the state is as before with SKIPPED_COND reported. -/
theorem gated_cases (cond : Cond) (s effect : State) :
    (gatePasses cond s = true ∧ gated cond s effect = effect) ∨
    (gatePasses cond s = false ∧ gated cond s effect = s.report .skippedCond) := by
  cases h : gatePasses cond s <;> simp [gated, h]

theorem gated_of_passes {cond : Cond} {s : State} (effect : State) (h : gatePasses cond s = true) :
    gated cond s effect = effect := by simp [gated, h]

theorem gated_of_fails {cond : Cond} {s : State} (effect : State) (h : gatePasses cond s = false) :
    gated cond s effect = s.report .skippedCond := by simp [gated, h]

/-- The gate's test is the reading of R82 that claims use. -/
theorem gatePasses_iff (cond : Cond) (s : State) : gatePasses cond s = true ↔ GateOpen cond s := by
  have h0 : cond.toNat = 0 ↔ cond = Cond.eq := ⟨fun h => BitVec.eq_of_toNat_eq h, fun h => by rw [h]; rfl⟩
  have h1 : cond.toNat = 1 ↔ cond = Cond.ne := ⟨fun h => BitVec.eq_of_toNat_eq h, fun h => by rw [h]; rfl⟩
  rw [gatePasses, GateOpen, h0, h1]
  by_cases he : cond = Cond.eq
  · subst he; simp
  · by_cases hn : cond = Cond.ne
    · subst hn; simp
    · simp [he, hn]

/-- The gate reads flag Z and nothing else (R82). -/
theorem gatePasses_congr (cond : Cond) {s t : State} (h : t.flags.z = s.flags.z) :
    gatePasses cond t = gatePasses cond s := by simp [gatePasses, h]

/-! ## Register-writing effects -/

/-- A write of one register with maybe flags, then EXECUTED: nothing else changes. -/
theorem writesOnly_setReg (s : State) (rd : RegNum) (v : Word) (w : Bool) (f : Flags) :
    WritesOnly rd s (((s.setReg rd v).setFlagsIf w f).report .executed) := by
  refine ⟨fun r hr => ?_, fun a => ?_, ?_, ?_, ?_⟩
  · simp [State.reg_setReg_of_ne, hr]
  · simp
  · simp [SameDriver]
  · simp
  · simp

theorem writesOnly_writeLogical (s : State) (w : Bool) (rd : RegNum) (res : Word) :
    WritesOnly rd s (s.writeLogical w rd res) := writesOnly_setReg s rd res w _

theorem writesOnly_addInto (s : State) (w : Bool) (rn rd : RegNum) (op2 : Operand2) :
    WritesOnly rd s (s.addInto w rn rd op2) := writesOnly_setReg s rd _ w _

theorem writesOnly_subInto (s : State) (w : Bool) (rn rd : RegNum) (op2 : Operand2) :
    WritesOnly rd s (s.subInto w rn rd op2) := writesOnly_setReg s rd _ w _

@[simp] theorem State.reg_writeLogical_same (s : State) (w : Bool) (rd : RegNum) (res : Word) :
    (s.writeLogical w rd res).reg rd = res := by simp [State.writeLogical]

@[simp] theorem State.flags_writeLogical (s : State) (w : Bool) (rd : RegNum) (res : Word) :
    (s.writeLogical w rd res).flags = if w then flagsNZ s.flags res else s.flags := by simp [State.writeLogical]

@[simp] theorem State.reg_addInto_same (s : State) (w : Bool) (rn rd : RegNum) (op2 : Operand2) :
    (s.addInto w rn rd op2).reg rd = s.reg rn + s.operand2 op2 := by simp [State.addInto]

@[simp] theorem State.flags_addInto (s : State) (w : Bool) (rn rd : RegNum) (op2 : Operand2) :
    (s.addInto w rn rd op2).flags = if w then flagsAdd (s.reg rn) (s.operand2 op2) else s.flags := by
  simp [State.addInto]

@[simp] theorem State.reg_subInto_same (s : State) (w : Bool) (rn rd : RegNum) (op2 : Operand2) :
    (s.subInto w rn rd op2).reg rd = s.reg rn - s.operand2 op2 := by simp [State.subInto]

@[simp] theorem State.flags_subInto (s : State) (w : Bool) (rn rd : RegNum) (op2 : Operand2) :
    (s.subInto w rn rd op2).flags = if w then flagsSub (s.reg rn) (s.operand2 op2) else s.flags := by
  simp [State.subInto]

/-- A shift kind's effect is the write of the shifted register. -/
theorem writesOnly_shiftInto (s : State) (w : Bool) (rd rm : RegNum) (ty : ShiftType) (amount : ShiftAmount) :
    WritesOnly rd s (s.shiftInto w rd rm ty amount) := writesOnly_writeLogical s w rd _

@[simp] theorem State.reg_shiftInto_same (s : State) (w : Bool) (rd rm : RegNum) (ty : ShiftType)
    (amount : ShiftAmount) :
    (s.shiftInto w rd rm ty amount).reg rd = shift ty (s.reg rm) (s.shiftAmount amount) := by
  simp [State.shiftInto, State.operand2]

/-- The flags of a MUL have the product's N and Z under both settings of MULS_CV, and the old C and V under
preserve. -/
theorem State.flagsMul_cases (s : State) (res : Word) :
    (s.flagsMul res).n = res.msb ∧ (s.flagsMul res).z = (res == 0#32) ∧
    (s.params.mulsCV = .preserve → (s.flagsMul res).c = s.flags.c ∧ (s.flagsMul res).v = s.flags.v) := by
  cases h : s.params.mulsCV <;> simp [State.flagsMul, flagsNZ, h]

/-- The amount of a shift is at most 31. -/
theorem State.shiftAmount_le (s : State) (amount : ShiftAmount) : s.shiftAmount amount ≤ 31 := by
  cases amount with
  | imm n => exact Nat.le_of_lt_succ n.isLt
  | reg rs => exact Nat.le_of_lt_succ (Nat.mod_lt _ (by decide))
  | none => exact Nat.zero_le _

/-! ## Load and store -/

/-- An access either is accepted and has its effect, or is rejected with none (R34, R35). -/
theorem State.access_cases (s : State) (ea : Nat) (effect : State) :
    (ea + 4 ≤ s.params.memSize ∧ s.access ea effect = effect.report .executed) ∨
    (¬ ea + 4 ≤ s.params.memSize ∧ s.access ea effect = s.report .rejectedOob) := by
  by_cases h : ea + 4 ≤ s.params.memSize <;> simp [State.access, State.accepts, h]

/-- A report changes nothing but the outcome. -/
theorem noEffect_report (s : State) (o : StepOutcome) : NoEffect s (s.report o) := by
  refine ⟨fun r => ?_, ?_, ?_, ?_, ?_⟩ <;> simp [SameDriver]

/-! ## The step -/

/-- A step either finds the run over or submits the stream's next word. -/
theorem step_cases (s : State) :
    (s.fetchWord = none ∧ step s = .fault .runEnded) ∨
    (∃ w, s.fetchWord = some w ∧ step s = exec (decodeWord w) (s.present (decodeRecord w))) := by
  unfold step
  cases h : s.fetchWord with
  | none => exact .inl ⟨rfl, rfl⟩
  | some w => exact .inr ⟨w, rfl, rfl⟩

end Sys2Proof.Machine
end

