-- ==== Sys2Proof/Laws/PerInstr.lean ====
section
/-! SUPPORT. Statements made per instruction. `EncodeCond`: the word of an instruction carries its condition code in
bits 31 to 28 (R50). -/

namespace Sys2Proof.Laws.EncodeCond

/-- Bits 31 to 28 of the instruction's word are its condition code. -/
def Statement (i : Instr) : Prop := condField (encode i) = i.cond

theorem encodeDataProcessing_cond (cond : Cond) (opcode : BitVec 4) (s : Bool) (rn rd : RegNum) (op2 : Operand2) :
    condField (encodeDataProcessing cond opcode s rn rd op2) = cond := by
  apply BitVec.eq_of_getLsbD_eq
  intro k hk
  simp only [condField, encodeDataProcessing, BitVec.getLsbD_extractLsb', BitVec.getLsbD_append]
  simp [show ¬ 28 + k < 12 by omega, show ¬ 28 + k - 12 < 4 by omega, show ¬ 28 + k - 12 - 4 < 4 by omega,
    show ¬ 28 + k - 12 - 4 - 4 < 1 by omega, show ¬ 28 + k - 12 - 4 - 4 - 1 < 4 by omega,
    show ¬ 28 + k - 12 - 4 - 4 - 1 - 4 < 1 by omega, show ¬ 28 + k - 12 - 4 - 4 - 1 - 4 - 1 < 2 by omega,
    show 28 + k - 12 - 4 - 4 - 1 - 4 - 1 - 2 = k by omega, hk]

theorem encodeLoadStore_cond (cond : Cond) (load : Bool) (rn rd : RegNum) (offset : BitVec 12) :
    condField (encodeLoadStore cond load rn rd offset) = cond := by
  apply BitVec.eq_of_getLsbD_eq
  intro k hk
  simp only [condField, encodeLoadStore, BitVec.getLsbD_extractLsb', BitVec.getLsbD_append]
  simp [show ¬ 28 + k < 12 by omega, show ¬ 28 + k - 12 < 4 by omega, show ¬ 28 + k - 12 - 4 < 4 by omega,
    show ¬ 28 + k - 12 - 4 - 4 < 1 by omega, show ¬ 28 + k - 12 - 4 - 4 - 1 < 5 by omega,
    show ¬ 28 + k - 12 - 4 - 4 - 1 - 5 < 2 by omega,
    show 28 + k - 12 - 4 - 4 - 1 - 5 - 2 = k by omega, hk]

theorem encodeBranch_cond (cond : Cond) (link : Bool) (offset : BitVec 24) :
    condField (encodeBranch cond link offset) = cond := by
  apply BitVec.eq_of_getLsbD_eq
  intro k hk
  simp only [condField, encodeBranch, BitVec.getLsbD_extractLsb', BitVec.getLsbD_append]
  simp [show ¬ 28 + k < 24 by omega, show ¬ 28 + k - 24 < 1 by omega, show ¬ 28 + k - 24 - 1 < 3 by omega,
    show 28 + k - 24 - 1 - 3 = k by omega, hk]

theorem mul (cond : Cond) (setFlags : Bool) (rd rs rm : RegNum) :
    Statement (.mul cond setFlags rd rs rm) := by
  apply BitVec.eq_of_getLsbD_eq
  intro k hk
  simp only [Instr.cond, condField, encode, BitVec.getLsbD_extractLsb', BitVec.getLsbD_append]
  simp [show ¬ 28 + k < 4 by omega, show ¬ 28 + k - 4 < 4 by omega, show ¬ 28 + k - 4 - 4 < 4 by omega,
    show ¬ 28 + k - 4 - 4 - 4 < 4 by omega, show ¬ 28 + k - 4 - 4 - 4 - 4 < 4 by omega,
    show ¬ 28 + k - 4 - 4 - 4 - 4 - 4 < 1 by omega, show ¬ 28 + k - 4 - 4 - 4 - 4 - 4 - 1 < 3 by omega,
    show ¬ 28 + k - 4 - 4 - 4 - 4 - 4 - 1 - 3 < 4 by omega,
    show 28 + k - 4 - 4 - 4 - 4 - 4 - 1 - 3 - 4 = k by omega, hk]

theorem addeq (setFlags : Bool) (rn rd : RegNum) (op2 : Operand2) :
    Statement (.addeq setFlags rn rd op2) := encodeDataProcessing_cond _ _ _ _ _ _

theorem subne (setFlags : Bool) (rn rd : RegNum) (op2 : Operand2) :
    Statement (.subne setFlags rn rd op2) := encodeDataProcessing_cond _ _ _ _ _ _

theorem lsl (cond : Cond) (setFlags : Bool) (rd rm : RegNum) (amount : ShiftAmount) :
    Statement (.lsl cond setFlags rd rm amount) := encodeDataProcessing_cond _ _ _ _ _ _

theorem lsr (cond : Cond) (setFlags : Bool) (rd rm : RegNum) (amount : ShiftAmount) :
    Statement (.lsr cond setFlags rd rm amount) := encodeDataProcessing_cond _ _ _ _ _ _

theorem asr (cond : Cond) (setFlags : Bool) (rd rm : RegNum) (amount : ShiftAmount) :
    Statement (.asr cond setFlags rd rm amount) := encodeDataProcessing_cond _ _ _ _ _ _

theorem ror (cond : Cond) (setFlags : Bool) (rd rm : RegNum) (amount : ShiftAmount) :
    Statement (.ror cond setFlags rd rm amount) := encodeDataProcessing_cond _ _ _ _ _ _

theorem and (cond : Cond) (setFlags : Bool) (rn rd : RegNum) (op2 : Operand2) :
    Statement (.and cond setFlags rn rd op2) := encodeDataProcessing_cond _ _ _ _ _ _

theorem sub (cond : Cond) (setFlags : Bool) (rn rd : RegNum) (op2 : Operand2) :
    Statement (.sub cond setFlags rn rd op2) := encodeDataProcessing_cond _ _ _ _ _ _

theorem add (cond : Cond) (setFlags : Bool) (rn rd : RegNum) (op2 : Operand2) :
    Statement (.add cond setFlags rn rd op2) := encodeDataProcessing_cond _ _ _ _ _ _

theorem cmp (cond : Cond) (rn rd : RegNum) (op2 : Operand2) :
    Statement (.cmp cond rn rd op2) := encodeDataProcessing_cond _ _ _ _ _ _

theorem orr (cond : Cond) (setFlags : Bool) (rn rd : RegNum) (op2 : Operand2) :
    Statement (.orr cond setFlags rn rd op2) := encodeDataProcessing_cond _ _ _ _ _ _

theorem mov (cond : Cond) (setFlags : Bool) (rn rd : RegNum) (op2 : Operand2) :
    Statement (.mov cond setFlags rn rd op2) := encodeDataProcessing_cond _ _ _ _ _ _

theorem unknownDpImm (cond : Cond) (setFlags : Bool) (rn rd : RegNum) (value : Word) :
    Statement (.unknownDpImm cond setFlags rn rd value) := encodeDataProcessing_cond _ _ _ _ _ _

theorem unknownDpReg (cond : Cond) (setFlags : Bool) (rn rd rm : RegNum) (ty : ShiftType) (amount : ShiftAmount) :
    Statement (.unknownDpReg cond setFlags rn rd rm ty amount) := encodeDataProcessing_cond _ _ _ _ _ _

theorem ldr (cond : Cond) (rn rd : RegNum) (offset : BitVec 12) :
    Statement (.ldr cond rn rd offset) := encodeLoadStore_cond _ _ _ _ _

theorem str (cond : Cond) (rn rd : RegNum) (offset : BitVec 12) :
    Statement (.str cond rn rd offset) := encodeLoadStore_cond _ _ _ _ _

theorem b (cond : Cond) (offset : BitVec 24) :
    Statement (.b cond offset) := encodeBranch_cond _ _ _

theorem bl (cond : Cond) (offset : BitVec 24) :
    Statement (.bl cond offset) := encodeBranch_cond _ _ _

theorem unknown (cond : Cond) :
    Statement (.unknown cond) := by
  apply BitVec.eq_of_getLsbD_eq
  intro k hk
  simp only [Instr.cond, condField, encode, BitVec.getLsbD_extractLsb', BitVec.getLsbD_append]
  simp [show ¬ 28 + k < 25 by omega, show ¬ 28 + k - 25 < 3 by omega, show 28 + k - 25 - 3 = k by omega, hk]

end Sys2Proof.Laws.EncodeCond
end

