-- ==== Sys2Proof/Laws/Reset.lean ====
section
/-! SUPPORT. Reset is creation of the state with every parameter at its default and no stream (R27, R136). -/

namespace Sys2Proof.Machine

theorem State.reset_eq_create : State.reset = State.create Params.default initRegs initFlags [] [] := rfl

end Sys2Proof.Machine
end

