-- ==== Sys2Proof/Laws/Stream.lean ====
section
/-! SUPPORT. The instruction stream: words of a stream from a position on, bytes and words, a placed word is the next
one fetched. -/

namespace Sys2Proof.Machine

/-- Dropping words is dropping four times as many bytes. -/
theorem cutWords_drop (b : List Byte) (n : Nat) : (cutWords b).drop n = cutWords (b.drop (4 * n)) := by
  induction n generalizing b with
  | zero => simp
  | succ n ih =>
    match b with
    | b0 :: b1 :: b2 :: b3 :: rest => rw [cutWords, List.drop_succ_cons, ih]; simp [Nat.mul_add]
    | [] => simp [cutWords]
    | [_] => simp [cutWords, Nat.mul_add]
    | [_, _] => simp [cutWords, Nat.mul_add]
    | [_, _, _] => simp [cutWords, Nat.mul_add]

/-- The next word is the first one cut from the bytes at the fetch position. -/
theorem State.fetchWord_eq (s : State) : s.fetchWord = (cutWords (s.stream.drop (4 * s.pos))).head? := by
  rw [State.fetchWord, ← cutWords_drop, List.head?_drop]

/-- A word is put together again from its bytes. -/
theorem wordOfBigEndian_bytes (w : Word) :
    wordOfBigEndian (w.extractLsb' 24 8) (w.extractLsb' 16 8) (w.extractLsb' 8 8) (w.extractLsb' 0 8) = w := by
  apply BitVec.eq_of_getLsbD_eq
  intro k hk
  simp only [wordOfBigEndian, BitVec.getLsbD_append, BitVec.getLsbD_extractLsb']
  rcases Nat.lt_or_ge k 8 with h | h
  · simp [h]
  · rcases Nat.lt_or_ge k 16 with h2 | h2
    · simp [show ¬ k < 8 by omega, show k - 8 < 8 by omega, show 8 + (k - 8) = k by omega]
    · rcases Nat.lt_or_ge k 24 with h3 | h3
      · simp [show ¬ k < 8 by omega, show ¬ k - 8 < 8 by omega, show k - 8 - 8 < 8 by omega,
          show 16 + (k - 8 - 8) = k by omega]
      · simp [show ¬ k < 8 by omega, show ¬ k - 8 < 8 by omega, show ¬ k - 8 - 8 < 8 by omega,
          show k - 8 - 8 - 8 < 8 by omega, show 24 + (k - 8 - 8 - 8) = k by omega]

/-- A placed word is the one the next step takes. -/
theorem State.fetchWord_placeWord (s : State) (w : Word) : (s.placeWord w).fetchWord = some w := by
  have hlen : ((s.stream ++ List.replicate (4 * s.pos) 0#8).take (4 * s.pos)).length = 4 * s.pos := by
    simp
  rw [State.fetchWord_eq, State.placeWord_pos]
  simp only [State.placeWord, List.append_assoc]
  rw [List.drop_append_of_le_length (by omega), List.drop_of_length_le (by omega)]
  simp [bigEndianBytes, cutWords, wordOfBigEndian_bytes]

end Sys2Proof.Machine
end

