-- ==== Sys2Proof/Tests/Slice0.lean ====
section
/-! SUPPORT. The model's own tests. Expected results are those of spec/95_test_vectors.md (the table is named in each
section) and of the examples of the rules named; the witnesses show that the hypotheses of the statements can be met. -/

namespace Sys2Proof.Tests

open Sys2Proof.Machine

/-! ## Helpers -/

/-- The reset state with some registers set, the flags NZCV given as a 4-bit number and some bytes in memory. -/
def st (regs : List (RegNum × Word)) (nzcv : BitVec 4) (mem : List (Nat × Byte)) : State :=
  { regs.foldl (fun s p => s.setReg p.1 p.2) State.reset with
    flags := { n := nzcv.getLsbD 3, z := nzcv.getLsbD 2, c := nzcv.getLsbD 1, v := nzcv.getLsbD 0 }
    mem := mem.foldl (fun m p => m.write p.1 p.2) [] }

/-- The next state of an outcome. -/
def nextOf : Host.Outcome State Fault Refusal → Option State
  | .next s => some s
  | .fault _ => none
  | .refused _ => none

/-- The flags NZCV as a 4-bit number. -/
def nzcv (s : State) : BitVec 4 :=
  BitVec.ofBool s.flags.n ++ BitVec.ofBool s.flags.z ++ BitVec.ofBool s.flags.c ++ BitVec.ofBool s.flags.v

/-- One step on a word, from reset placement: a register, the flags and the outcome after it. -/
def seen (w : Nat) (r : RegNum) (s : State) : Option (Word × BitVec 4 × Option StepOutcome) :=
  (nextOf (step (s.withFetchWord 32 w))).map fun t => (t.reg r, nzcv t, t.outcome)

/-- One step on a word: the bytes at some addresses and the outcome after it. -/
def seenMem (w : Nat) (addrs : List Nat) (s : State) : Option (List Byte × Option StepOutcome) :=
  (nextOf (step (s.withFetchWord 32 w))).map fun t => (addrs.map t.mem.read, t.outcome)

/-! ## Ill-formed instructions are refused by each check -/

theorem test_wf_imm : (Instr.and 14#4 false 0#4 0#4 (.imm 0x101#32)).wellFormed = false := by decide
theorem test_wf_unknownImm : (Instr.unknownDpImm 14#4 false 0#4 0#4 0x102#32).wellFormed = false := by decide
theorem test_wf_noShift : (Instr.orr 14#4 false 0#4 0#4 (.reg 1#4 .lsl .none)).wellFormed = false := by decide
theorem test_wf_shiftKind : (Instr.ror 14#4 false 0#4 0#4 .none).wellFormed = false := by decide
theorem test_wf_add_eq : (Instr.add 0#4 false 0#4 0#4 (.imm 1#32)).wellFormed = false := by decide
theorem test_wf_sub_ne : (Instr.sub 1#4 false 0#4 0#4 (.imm 1#32)).wellFormed = false := by decide
theorem test_wf_mov_rn0 : (Instr.mov 14#4 false 0#4 0#4 (.reg 1#4 .lsl (.imm 0#5))).wellFormed = false := by decide
theorem test_wf_good : (Instr.mov 14#4 false 1#4 0#4 (.reg 1#4 .lsl (.imm 0#5))).wellFormed = true := by decide

/-! ## Decoding: V-KIND, every constructor, words written out from the formats of R53 to R68 -/

/-- cond 1110, 0000, 000, S 0, rd 0010, 0000, rs 0001, 1001, rm 0000 (R53): 0xE0020190. -/
theorem test_decode_mul :
    decodeWord 0b1110_0000_000_0_0010_0000_0001_1001_0000#32 = .mul 14#4 false 2#4 1#4 0#4 := by decide
/-- cond 1110, 00, I 1, opcode 1101, S 0, rn 0000, rd 0000, rotate 0000, imm8 00010000 (R54, R56): 0xE3A00010. -/
theorem test_decode_mov :
    decodeWord 0b1110_00_1_1101_0_0000_0000_0000_00010000#32 = .mov 14#4 false 0#4 0#4 (.imm 16#32) := by decide
/-- cond 1110, 00, I 0, opcode 0100, S 0, rn 0001, rd 0011, amount 00000, type 00, 0, rm 0010 (R58): 0xE0813002. -/
theorem test_decode_add :
    decodeWord 0b1110_00_0_0100_0_0001_0011_00000_00_0_0010#32 =
      .add 14#4 false 1#4 3#4 (.reg 2#4 .lsl (.imm 0#5)) := by decide
theorem test_decode_addeq : decodeWord 0x00902001#32 = .addeq true 0#4 2#4 (.reg 1#4 .lsl (.imm 0#5)) := by decide
theorem test_decode_sub : decodeWord 0xE0502001#32 = .sub 14#4 true 0#4 2#4 (.reg 1#4 .lsl (.imm 0#5)) := by decide
/-- cond 0001, 00, I 0, opcode 0010, S 0, rn 0000, rd 0000, amount 00000, type 00, 0, rm 0101: 0x10400005. -/
theorem test_decode_subne :
    decodeWord 0b0001_00_0_0010_0_0000_0000_00000_00_0_0101#32 =
      .subne false 0#4 0#4 (.reg 5#4 .lsl (.imm 0#5)) := by decide
theorem test_decode_cmp : decodeWord 0xE1500005#32 = .cmp 14#4 0#4 0#4 (.reg 5#4 .lsl (.imm 0#5)) := by decide
theorem test_decode_and : decodeWord 0xE0102001#32 = .and 14#4 true 0#4 2#4 (.reg 1#4 .lsl (.imm 0#5)) := by decide
/-- ORR R1, R0, R1, LSL R4: rs 0100, bit 7 = 0, type 00, 1, rm 0001 (R58, R107): 0xE1801411. -/
theorem test_decode_orr :
    decodeWord 0b1110_00_0_1100_0_0000_0001_0100_0_00_1_0001#32 =
      .orr 14#4 false 0#4 1#4 (.reg 1#4 .lsl (.reg 4#4)) := by decide
theorem test_decode_lsl : decodeWord 0xE1A02391#32 = .lsl 14#4 false 2#4 1#4 (.reg 3#4) := by decide
theorem test_decode_lsr : decodeWord 0xE1A02FA1#32 = .lsr 14#4 false 2#4 1#4 (.imm 31#5) := by decide
theorem test_decode_asr : decodeWord 0xE1A02351#32 = .asr 14#4 false 2#4 1#4 (.reg 3#4) := by decide
theorem test_decode_ror : decodeWord 0xE1A01261#32 = .ror 14#4 false 1#4 1#4 (.imm 4#5) := by decide
/-- cond 1110, 01, ignored 11100, L 1, rn 0001, rd 0010, offset 4 (R66): 0xE7912004. -/
theorem test_decode_ldr :
    decodeWord 0b1110_01_11100_1_0001_0010_000000000100#32 = .ldr 14#4 1#4 2#4 4#12 := by decide
theorem test_decode_str : decodeWord 0xE58123FC#32 = .str 14#4 1#4 2#4 0x3FC#12 := by decide
/-- cond 1110, 101, L 0, offset (R67): 0xEA000002. -/
theorem test_decode_b : decodeWord 0b1110_101_0_000000000000000000000010#32 = .b 14#4 2#24 := by decide
theorem test_decode_bl : decodeWord 0xEBFFFFFE#32 = .bl 14#4 16777214#24 := by decide
/-- cond 1110, 111, bits 24 to 0 not examined (R68): 0xEF000011. -/
theorem test_decode_unknown : decodeWord 0b1110_111_1000000000000000000010001#32 = .unknown 14#4 := by decide
theorem test_decode_unknownDpImm : decodeWord 0xE3300001#32 = .unknownDpImm 14#4 true 0#4 0#4 1#32 := by decide
/-- The branch-and-exchange word of V-UNK. -/
theorem test_decode_unknownDpReg :
    decodeWord 0xE12FFF1E#32 = .unknownDpReg 14#4 false 15#4 15#4 14#4 .lsl (.reg 15#4) := by decide

/-- V-IMM: rotate 0, 1, 8 and 15 of 0xFF. -/
theorem test_rotate_immediate :
    [0#4, 1#4, 8#4, 15#4].map (fun r => rotateImmediate r 0xFF#8) =
      [0x000000FF#32, 0xC000003F#32, 0x00FF0000#32, 0x000003FC#32] := by decide

/-- R53: a word meant as data processing that fits the multiply pattern is MUL; V-UNK: with bit 24 = 1 it is not. -/
theorem test_multiply_first :
    (decodeWord 0xE0012394#32).kind = .mul ∧ (decodeWord 0xE1010092#32).kind = .unknownDpReg := by decide

/-- The encoder writes the words of V-KIND; LDR's ignored bits 25 to 21 are 0 (R66, log entry 17). -/
theorem test_encode :
    encode (.mov 14#4 false 0#4 0#4 (.imm 16#32)) = 0xE3A00010#32 ∧
    encode (.add 14#4 false 1#4 3#4 (.reg 2#4 .lsl (.imm 0#5))) = 0xE0813002#32 ∧
    encode (.ldr 14#4 1#4 2#4 4#12) = 0xE4112004#32 ∧ encode (.bl 14#4 16777214#24) = 0xEBFFFFFE#32 ∧
    encode (.mul 14#4 false 2#4 1#4 0#4) = 0xE0020190#32 := by decide

/-- Fewer than four bytes are rejected by name (R32). -/
theorem test_decode_truncated : decodeBytes [0xE3#8, 0xA0#8, 0x00#8] = .error .truncatedWord := by decide

/-! ## One step each: V-MOV to V-UNK -/

theorem test_mov_imm : seen 0xE3A00010 0#4 State.reset = some (0x10#32, 0b0000#4, some .executed) := by decide
theorem test_mov_flags : seen 0xE3B00000 0#4 (st [(0#4, 7#32)] 0b1011#4 []) =
    some (0#32, 0b0111#4, some .executed) := by decide
theorem test_add_overflow : seen 0xE0902001 2#4 (st [(0#4, 0x7FFFFFFF#32), (1#4, 1#32)] 0b0000#4 []) =
    some (0x80000000#32, 0b1001#4, some .executed) := by decide
theorem test_add_old_values : seen 0xE0911111 1#4 (st [(1#4, 3#32)] 0b0000#4 []) =
    some (0x1B#32, 0b0000#4, some .executed) := by decide
theorem test_addeq_skipped : seen 0x00902001 2#4 (st [(0#4, 1#32), (1#4, 2#32)] 0b0000#4 []) =
    some (0#32, 0b0000#4, some .skippedCond) := by decide
theorem test_addeq_executed : seen 0x00902001 2#4 (st [(0#4, 1#32), (1#4, 2#32)] 0b0100#4 []) =
    some (3#32, 0b0000#4, some .executed) := by decide
theorem test_sub_borrow : seen 0xE0502001 2#4 (st [(0#4, 0#32), (1#4, 1#32)] 0b0000#4 []) =
    some (0xFFFFFFFF#32, 0b1000#4, some .executed) := by decide
theorem test_sub_overflow : seen 0xE0502001 2#4 (st [(0#4, 0x80000000#32), (1#4, 1#32)] 0b0000#4 []) =
    some (0x7FFFFFFF#32, 0b0011#4, some .executed) := by decide
theorem test_subne_skipped : seen 0x10400005 0#4 (st [(0#4, 0x10#32), (5#4, 3#32)] 0b0100#4 []) =
    some (0x10#32, 0b0100#4, some .skippedCond) := by decide
theorem test_subne_executed : seen 0x10400005 0#4 (st [(0#4, 0x10#32), (5#4, 3#32)] 0b0000#4 []) =
    some (0x0D#32, 0b0000#4, some .executed) := by decide
theorem test_cmp_forced : seen 0xE1400001 0#4 (st [(0#4, 1#32), (1#4, 2#32)] 0b0000#4 []) =
    some (1#32, 0b1000#4, some .executed) := by decide
theorem test_cmp_rd15 : seen 0xE150F001 15#4 (st [(0#4, 0x80000000#32), (1#4, 1#32), (15#4, 0x44#32)] 0b0000#4 []) =
    some (0x44#32, 0b0011#4, some .executed) := by decide
theorem test_and : seen 0xE0102001 2#4 (st [(0#4, 0xF0F0F0F0#32), (1#4, 0x0F0F0F0F#32)] 0b0011#4 []) =
    some (0#32, 0b0111#4, some .executed) := by decide
theorem test_orr : seen 0xE1902001 2#4 (st [(0#4, 0xF0F0F0F0#32), (1#4, 0x0F0F0F0F#32)] 0b0011#4 []) =
    some (0xFFFFFFFF#32, 0b1011#4, some .executed) := by decide
theorem test_orr_old_values : seen 0xE1801411 1#4 (st [(0#4, 1#32), (1#4, 3#32), (4#4, 0x23#32)] 0b0000#4 []) =
    some (0x19#32, 0b0000#4, some .executed) := by decide
theorem test_lsl_by_32_is_0 : seen 0xE1A02311 2#4 (st [(1#4, 1#32), (3#4, 0x20#32)] 0b0000#4 []) =
    some (1#32, 0b0000#4, some .executed) := by decide
theorem test_lsr_flags : seen 0xE1B02331 2#4 (st [(1#4, 1#32), (3#4, 1#32)] 0b1011#4 []) =
    some (0#32, 0b0111#4, some .executed) := by decide
theorem test_asr_31 : seen 0xE1A02351 2#4 (st [(1#4, 0x80000000#32), (3#4, 0xFF#32)] 0b0000#4 []) =
    some (0xFFFFFFFF#32, 0b0000#4, some .executed) := by decide
theorem test_asr_4 : seen 0xE1A02241 2#4 (st [(1#4, 0x80000000#32)] 0b0000#4 []) =
    some (0xF8000000#32, 0b0000#4, some .executed) := by decide
theorem test_ror_0 : seen 0xE1A02061 2#4 (st [(1#4, 0x80000001#32)] 0b0000#4 []) =
    some (0x80000001#32, 0b0000#4, some .executed) := by decide
theorem test_ror_4 : seen 0xE1A02261 2#4 (st [(1#4, 0x12345678#32)] 0b0000#4 []) =
    some (0x81234567#32, 0b0000#4, some .executed) := by decide
theorem test_mul_flags : seen 0xE0120190 2#4 (st [(0#4, 0x10000#32), (1#4, 0x10000#32)] 0b1011#4 []) =
    some (0#32, 0b0111#4, some .executed) := by decide
theorem test_mul_low_bits : seen 0xE0120190 2#4 (st [(0#4, 0xFFFFFFFF#32), (1#4, 0xFFFFFFFF#32)] 0b0011#4 []) =
    some (1#32, 0b0011#4, some .executed) := by decide
theorem test_ldr_unaligned : seen 0xE5912001 2#4
    (st [(1#4, 0x10#32)] 0b0000#4 [(17, 0x11#8), (18, 0x22#8), (19, 0x33#8), (20, 0x44#8)]) =
    some (0x44332211#32, 0b0000#4, some .executed) := by decide
theorem test_ldr_wraps : seen 0xE5912004 2#4
    (st [(1#4, 0xFFFFFFFC#32)] 0b0000#4 [(0, 0xAA#8), (1, 0xBB#8), (2, 0xCC#8), (3, 0xDD#8)]) =
    some (0xDDCCBBAA#32, 0b0000#4, some .executed) := by decide
theorem test_str_top : seenMem 0xE58123FC [1020, 1021, 1022, 1023] (st [(2#4, 0xDEADBEEF#32)] 0b0000#4 []) =
    some ([0xEF#8, 0xBE#8, 0xAD#8, 0xDE#8], some .executed) := by decide
theorem test_str_rejected : seenMem 0xE58123FD [1021, 1022, 1023, 1024] (st [(2#4, 0xDEADBEEF#32)] 0b0000#4 []) =
    some ([0#8, 0#8, 0#8, 0#8], some .rejectedOob) := by decide
theorem test_b : seen 0xEAFFFFFF 15#4 (st [(15#4, 8#32)] 0b0000#4 []) =
    some (8#32, 0b0000#4, some .nopBranch) := by decide
theorem test_bl : seen 0xEBFFFFFE 14#4 (st [(14#4, 5#32)] 0b0000#4 []) =
    some (5#32, 0b0000#4, some .nopBranch) := by decide
theorem test_unknown : seen 0xE8BD8000 13#4 (st [(13#4, 0x100#32)] 0b0000#4 []) =
    some (0x100#32, 0b0000#4, some .nopUnknown) := by decide
theorem test_unknownDpImm : seen 0xE3300001 0#4 (st [(0#4, 1#32)] 0b0000#4 []) =
    some (1#32, 0b0000#4, some .nopUnknown) := by decide
theorem test_unknownDpReg : seen 0xE1E00001 0#4 (st [(1#4, 5#32)] 0b0000#4 []) =
    some (0#32, 0b0000#4, some .nopUnknown) := by decide

/-! ## The stream and the run: V-STREAM, P4 -/

theorem test_stream_big_endian : cutWords [0xE3#8, 0xA0#8, 0x00#8, 0x10#8, 0xE0#8, 0x81#8, 0x30#8, 0x02#8, 0x10#8] =
    [0xE3A00010#32, 0xE0813002#32] := by decide

/-- From reset, with no stream supplied, the run is over at once (R141). -/
theorem test_empty_run : (nextOf (step State.reset)).isNone = true := by decide

/-- The placed word is the one the next step takes, also in the middle of a stream. -/
theorem test_withFetchWord :
    ({ State.reset with stream := [1#8, 2#8, 3#8, 4#8], pos := 1 }.withFetchWord 32 0xE3A00010).fetchWord =
      some 0xE3A00010#32 := by decide

/-- The table's first words of rows 1, 40 and 70 decode as the host numbers them. -/
theorem test_decodeTableWord :
    [0x00000090, 0x03200000, 0x0E000000].map (fun w => (decodeTableWord 32 w).map Instr.kind) =
      [some .mul, some .unknownDpImm, some .unknown] := by decide

/-! ## Witnesses: the hypotheses of each statement can be met, clause by clause -/

theorem test_witness_MultiplyWordFields : bits 0xE0020190#32 27 24 = 0 ∧ bits 0xE0020190#32 7 4 = 9 := by decide

/-- Class 2 words that are not multiplies, for each opcode clause: AND, SUB and SUBNE, ADD and ADDEQ, CMP, ORR, MOV in
its forms, the shift kinds, the first and last unmapped opcodes in both forms. -/
theorem test_witness_DataProcessingKinds :
    [0xE0102001#32, 0xE0502001#32, 0x10400005#32, 0xE0813002#32, 0x00902001#32, 0xE1500005#32, 0xE1902001#32,
      0xE3A00010#32, 0xE1B12001#32, 0xE1A02001#32, 0xE1A02061#32, 0xE2200001#32, 0xE3E00001#32, 0xE0200000#32,
      0xE1E00001#32].all
      (fun w => bits w 27 26 == 0 && !(bits w 27 24 == 0 && bits w 7 4 == 9)) = true := by decide

theorem test_witness_DataProcessingKinds_clauses :
    bits 0xE0102001#32 24 21 = 0b0000 ∧ bits 0xE0502001#32 24 21 = 0b0010 ∧ bits 0xE0813002#32 24 21 = 0b0100 ∧
    bits 0xE1500005#32 24 21 = 0b1010 ∧ bits 0xE1902001#32 24 21 = 0b1100 ∧
    (bits 0xE3A00010#32 24 21 = 0b1101 ∧ bits 0xE3A00010#32 25 25 = 1) ∧
    (bits 0xE1B12001#32 24 21 = 0b1101 ∧ bits 0xE1B12001#32 25 25 = 0 ∧ bits 0xE1B12001#32 19 16 ≠ 0) ∧
    (bits 0xE1A02061#32 24 21 = 0b1101 ∧ bits 0xE1A02061#32 25 25 = 0 ∧ bits 0xE1A02061#32 19 16 = 0) ∧
    bits 0xE2200001#32 24 21 = 0b0001 ∧ bits 0xE1E00001#32 24 21 = 0b1111 := by decide

theorem test_witness_DataProcessingRegisters :
    bits 0xE1400001#32 27 26 = 0 ∧ ¬ (bits 0xE1400001#32 27 24 = 0 ∧ bits 0xE1400001#32 7 4 = 9) := by decide

theorem test_witness_Operand2Fields :
    (bits 0xE3A06FFF#32 27 26 = 0 ∧ bits 0xE3A06FFF#32 27 24 ≠ 0 ∧ bits 0xE3A06FFF#32 25 25 = 1) ∧
    (bits 0xE1A02F81#32 27 26 = 0 ∧ bits 0xE1A02F81#32 27 24 ≠ 0 ∧ bits 0xE1A02F81#32 25 25 = 0 ∧
      bits 0xE1A02F81#32 4 4 = 0) ∧
    (bits 0xE1A02391#32 27 26 = 0 ∧ bits 0xE1A02391#32 27 24 ≠ 0 ∧ bits 0xE1A02391#32 25 25 = 0 ∧
      bits 0xE1A02391#32 4 4 = 1) := by decide

theorem test_witness_SelfRotateIsRor :
    bits 0xE1A01261#32 27 25 = 0 ∧ bits 0xE1A01261#32 24 21 = 0b1101 ∧ bits 0xE1A01261#32 19 16 = 0 ∧
    bits 0xE1A01261#32 6 4 = 0b110 ∧ bits 0xE1A01261#32 3 0 = bits 0xE1A01261#32 15 12 := by decide

theorem test_witness_LoadStoreWordFields :
    (bits 0xE7912004#32 27 26 = 1 ∧ bits 0xE7912004#32 20 20 = 1) ∧
    (bits 0xE58123FD#32 27 26 = 1 ∧ bits 0xE58123FD#32 20 20 = 0) := by decide

theorem test_witness_BranchWordFields :
    (bits 0xEAFFFFFF#32 27 25 = 0b101 ∧ bits 0xEAFFFFFF#32 24 24 = 0) ∧
    (bits 0xEB000000#32 27 25 = 0b101 ∧ bits 0xEB000000#32 24 24 = 1) := by decide

theorem test_witness_UnknownWords :
    (decodeWord 0xE8BD8000#32).kind = .unknown ∧ (decodeWord 0xECBD8000#32).kind = .unknown ∧
    (decodeWord 0xFFFFFFFF#32).kind = .unknown ∧ (decodeWord 0xEB000000#32).kind ≠ .unknown := by decide

/-- Each format, each shift kind. -/
theorem test_witness_RecordFieldsPresent :
    [0xE0020190#32, 0xE3A00010#32, 0xE0813002#32, 0xE1801411#32, 0xE5912004#32, 0xEA000002#32, 0xEF000011#32].map
      (fun w => (decodeWord w).format) = [.mul, .dpi, .dpr, .dprs, .ls, .br, .unk] ∧
    [0xE1A02001#32, 0xE1A02021#32, 0xE1A02041#32, 0xE1A02061#32].map (fun w => (decodeWord w).kind) =
      [.lsl, .lsr, .asr, .ror] := by decide

theorem test_witness_ShiftDescriptorsExclusive :
    (decodeWord 0xE1A02F81#32).shiftAmount?.isSome = true ∧ (decodeWord 0xE3A00010#32).operand2?.isSome = true ∧
    ((decodeWord 0xE1801411#32).kind ≠ .mul ∧ (decodeWord 0xE1801411#32).rm?.isSome = true) ∧
    (decodeWord 0xE0020190#32).kind = .mul := by decide

theorem test_witness_IgnoredBitsDoNotMatter :
    ((decodeWord 0xE0020190#32).format = .mul ∧ 0x00E0F000#32 &&& ~~~0x00E0F000#32 = 0#32) ∧
    ((decodeWord 0xE1A02311#32).format = .dprs ∧ 0x00000080#32 &&& ~~~0x00000080#32 = 0#32 ∧
      ¬ (bits (0xE1A02311#32 ^^^ 0x00000080#32) 27 24 = 0 ∧ bits (0xE1A02311#32 ^^^ 0x00000080#32) 7 4 = 9)) ∧
    ((decodeWord 0xE5912004#32).format = .ls ∧ 0x03E00000#32 &&& ~~~0x03E00000#32 = 0#32) ∧
    ((decodeWord 0xEF000011#32).format = .unk ∧ 0x01FFFFFF#32 &&& ~~~0x01FFFFFF#32 = 0#32) := by decide

/-- One well-formed instruction of every kind. -/
theorem test_witness_DecodeEncodeRoundTrip :
    [Instr.mul 15#4 true 15#4 0#4 7#4, .addeq true 1#4 2#4 (.imm 0xC000003F#32), .subne false 1#4 2#4 (.imm 0#32),
      .lsl 0#4 true 15#4 0#4 (.imm 31#5), .lsr 1#4 true 0#4 0#4 (.reg 15#4), .asr 2#4 false 0#4 0#4 (.imm 0#5),
      .ror 14#4 false 1#4 1#4 (.imm 4#5), .and 14#4 true 0#4 0#4 (.reg 0#4 .lsl (.reg 9#4)),
      .sub 0#4 true 0#4 0#4 (.imm 255#32), .add 1#4 true 0#4 0#4 (.imm 0xFF000000#32),
      .cmp 14#4 0#4 15#4 (.imm 0x3FC#32), .orr 14#4 false 0#4 0#4 (.reg 15#4 .ror (.imm 31#5)),
      .mov 14#4 false 15#4 0#4 (.reg 0#4 .asr (.reg 0#4)), .unknownDpImm 14#4 true 0#4 0#4 1#32,
      .unknownDpReg 14#4 true 0#4 0#4 0#4 .lsr (.imm 0#5), .ldr 14#4 0#4 0#4 0xFFF#12, .str 14#4 0#4 0#4 0#12,
      .b 14#4 0xFFFFFF#24, .bl 14#4 0#24, .unknown 15#4].all Instr.wellFormed = true := by decide

theorem test_witness_StreamCutIntoWords : 1 < [1#8, 2#8, 3#8, 4#8, 5#8, 6#8, 7#8, 8#8, 9#8].length / 4 := by decide

theorem test_witness_BarrelShifterResults : 0 ≤ 31 ∧ 31 ≤ 31 := by decide

theorem test_witness_MemWriteLittleEndian : Memory.wf [(20, 0xEF#8), (21, 0xBE#8)] = true := by decide

theorem test_witness_BoundsCheck :
    4 ≤ State.reset.params.memSize ∧ { State.reset.params with memSize := 4 }.memSize = 4 ∧
    { State.reset.params with memSize := 3 }.memSize < 4 := by decide

theorem test_witness_EffectiveAddressValue :
    State.reset.params.addrWrap = true ∧ { State.reset.params with addrWrap := false }.addrWrap = false ∧
    ((st [(1#4, 0xFFFFF000#32)] 0#4 []).reg 1#4).toNat + (0xFFF#12).toNat < 2 ^ 32 := by decide

/-- An open gate: always, EQ with Z = 1, NE with Z = 0; with and without `set_flags` for the statements that say both. -/
theorem test_witness_gate :
    GateOpen 14#4 State.reset ∧ GateOpen 0#4 (st [] 0b0100#4 []) ∧ GateOpen 1#4 State.reset ∧
    GateOpen 2#4 (st [] 0b0100#4 []) := by decide

theorem test_witness_MovEffect : GateOpen 14#4 (st [(1#4, 5#32)] 0b0110#4 []) := by decide

theorem test_witness_CmpEffect : GateOpen 0#4 (st [(15#4, 5#32)] 0b0110#4 []) := by decide

theorem test_witness_LogicalEffect : GateOpen 1#4 (st [(1#4, 5#32)] 0b0011#4 []) := by decide

/-- The gate is open at the least and the greatest amount. -/
theorem test_witness_ShiftKindsEffect :
    GateOpen 15#4 (st [(3#4, 0x3F#32)] 0b0011#4 []) ∧ (st [(3#4, 0x3F#32)] 0b0011#4 []).shiftAmount (.reg 3#4) = 31 ∧
    (st [(3#4, 0x20#32)] 0b0011#4 []).shiftAmount (.reg 3#4) = 0 := by decide

theorem test_witness_BranchesAreInert : GateOpen 0#4 (st [(14#4, 5#32)] 0b0100#4 []) := by decide

theorem test_witness_UnknownKindsAreInert : GateOpen 14#4 (st [(0#4, 5#32)] 0b0000#4 []) := by decide

theorem test_witness_AddEffect : GateOpen 1#4 State.reset ∧ (st [] 0b0100#4 []).flags.z = true := by decide

theorem test_witness_SubEffect : GateOpen 0#4 (st [] 0b0100#4 []) ∧ State.reset.flags.z = false := by decide

theorem test_witness_MulEffect :
    GateOpen 14#4 State.reset ∧ State.reset.params.mulsCV = .preserve := by decide

/-- The highest accepted address. -/
theorem test_witness_LdrEffect :
    GateOpen 14#4 State.reset ∧ State.reset.effectiveAddress 1#4 0x3FC#12 = 1020 ∧ 1020 + 4 ≤ State.reset.params.memSize := by
  decide

theorem test_witness_StrEffect :
    GateOpen 14#4 State.reset ∧ State.reset.mem.wf = true ∧
    State.reset.effectiveAddress 1#4 0#12 + 4 ≤ State.reset.params.memSize := by decide

/-- The lowest rejected address. -/
theorem test_witness_RejectedAccessHasNoEffect :
    GateOpen 14#4 State.reset ∧ ¬ State.reset.effectiveAddress 1#4 0x3FD#12 + 4 ≤ State.reset.params.memSize := by decide

theorem test_witness_FailedGateHasNoEffect :
    ¬ GateOpen (Instr.b 0#4 0#24).cond State.reset ∧ ¬ GateOpen (Instr.subne false 0#4 0#4 (.imm 0#32)).cond (st [] 4#4 []) ∧
    GateOpen (Instr.b 2#4 0#24).cond State.reset := by decide

/-- The gate and each kind clause of OutcomeOfEveryInstruction. -/
theorem test_witness_OutcomeOfEveryInstruction :
    GateOpen 14#4 State.reset ∧ ¬ GateOpen 0#4 State.reset ∧
    (Instr.bl 14#4 0#24).kind ∈ [Kind.b, .bl] ∧
    (Instr.unknownDpReg 14#4 true 0#4 0#4 0#4 .lsl (.imm 0#5)).kind ∈ [Kind.unknown, .unknownDpImm, .unknownDpReg] ∧
    (State.reset.effectiveAddress 1#4 0x3FC#12 + 4 ≤ State.reset.params.memSize) ∧
    ¬ (State.reset.effectiveAddress 1#4 0x3FD#12 + 4 ≤ State.reset.params.memSize) ∧
    (Instr.mul 14#4 true 0#4 0#4 0#4).kind ∈
      [Kind.mov, .add, .addeq, .sub, .subne, .cmp, .and, .orr, .lsl, .lsr, .asr, .ror, .mul] := by decide

/-- CMP of the reset state completes; it writes none of the registers and its `rd` is not register 15. -/
theorem test_witness_RegistersWrittenOnlyByName :
    (nextOf (exec (.cmp 14#4 0#4 0#4 (.imm 0#32)) State.reset)).isSome = true ∧
    (Instr.cmp 14#4 0#4 0#4 (.imm 0#32)).rd? ≠ some 15#4 ∧
    (Instr.cmp 14#4 0#4 0#4 (.imm 0#32)).kind ∈ [Kind.cmp, .str, .b, .bl, .unknown, .unknownDpImm, .unknownDpReg] := by
  decide

theorem test_witness_FlagsWrittenOnlyOnRequest :
    (nextOf (exec (.mul 14#4 true 0#4 0#4 0#4) State.reset)).isSome = true ∧
    (Instr.mul 14#4 true 0#4 0#4 0#4).kind = .mul ∧ State.reset.params.mulsCV = .preserve ∧
    (Instr.mul 14#4 false 0#4 0#4 0#4).setFlags = false ∧
    (Instr.unknownDpImm 14#4 true 0#4 0#4 0#32).kind ∈
      [Kind.ldr, .str, .b, .bl, .unknown, .unknownDpImm, .unknownDpReg] ∧
    (Instr.ror 14#4 true 0#4 0#4 (.imm 0#5)).kind ∈ [Kind.mov, .and, .orr, .lsl, .lsr, .asr, .ror] := by decide

theorem test_witness_MemoryReachedOnlyByLoadStore :
    (nextOf (exec (.mov 14#4 false 0#4 0#4 (.imm 1#32)) State.reset)).isSome = true ∧
    (Instr.mov 14#4 false 0#4 0#4 (.imm 1#32)).kind ≠ .str ∧
    (Instr.mov 14#4 false 0#4 0#4 (.imm 1#32)).kind ≠ .ldr := by decide

theorem test_witness_LoadAfterStoreReturnsIt :
    GateOpen 14#4 State.reset ∧ State.reset.mem.wf = true ∧
    State.reset.effectiveAddress 1#4 0x3FC#12 + 4 ≤ State.reset.params.memSize ∧
    (nextOf (exec (.str 14#4 1#4 2#4 0x3FC#12) State.reset)).isSome = true := by decide

theorem test_witness_CreatedStateIsItsParameters : 1023 < Params.default.memSize := by decide

theorem test_witness_StepKeepsInvariant :
    (State.reset.withFetchWord 32 0xE3A00010).Inv ∧
    (nextOf (step (State.reset.withFetchWord 32 0xE3A00010))).isSome = true := by decide

theorem test_witness_StepRunsDecodedInstruction :
    (State.reset.withFetchWord 32 0xE3A00010).stream.drop (4 * (State.reset.withFetchWord 32 0xE3A00010).pos) =
      0xE3#8 :: 0xA0#8 :: 0x00#8 :: 0x10#8 :: [] ∧
    decodeWord (wordOfBigEndian 0xE3#8 0xA0#8 0x00#8 0x10#8) = .mov 14#4 false 0#4 0#4 (.imm 16#32) := by decide

theorem test_witness_StepTakesWordsInOrder :
    (cutWords (State.reset.withFetchWord 32 0xE3A00010).stream)[0]? = some 0xE3A00010#32 ∧
    (cutWords State.reset.stream)[0]? = none := by decide

theorem test_witness_StepStopsExactlyAtRunEnd :
    State.reset.runOver ∧ ¬ (State.reset.withFetchWord 32 0xE3A00010).runOver := by decide

theorem test_witness_RunTakesOneStepPerWord :
    State.reset.pos ≤ State.reset.stream.length / 4 ∧
    (State.reset.withFetchWord 32 0).pos ≤ (State.reset.withFetchWord 32 0).stream.length / 4 := by decide

theorem test_witness_RunIsRunOverCutWords :
    (State.reset.withFetchWord 32 0).pos + 1 ≤ (State.reset.withFetchWord 32 0).stream.length / 4 := by decide

theorem test_witness_RunDeliversTriples :
    (State.reset.withFetchWord 32 0).pos + 0 < (State.reset.withFetchWord 32 0).stream.length / 4 := by decide

end Sys2Proof.Tests
end

section
/-! PROOFS. An instruction's effect leaves the driver's side alone, said once for all twenty kinds, and what follows
for the order in which steps take the words of the stream (R17, R79, R141). -/

namespace Sys2Proof.Machine

/-! ## Effects that keep the driver's side -/

theorem WritesOnly.sameDriver {rd : RegNum} {s t : State} (h : WritesOnly rd s t) : SameDriver s t := by
  obtain ⟨-, -, hdriver, -, -⟩ := h
  exact hdriver

theorem sameDriver_report (s : State) (o : StepOutcome) : SameDriver s (s.report o) := by
  obtain ⟨-, -, -, hdriver, -⟩ := noEffect_report s o
  exact hdriver

/-- The gate answers its effect or a mere report, so it keeps what the effect keeps (R83). -/
theorem sameDriver_gated {s effect : State} (cond : Cond) (h : SameDriver s effect) :
    SameDriver s (gated cond s effect) := by
  rcases gated_cases cond s effect with ⟨-, heq⟩ | ⟨-, heq⟩ <;> rw [heq]
  · exact h
  · exact sameDriver_report s _

/-- An access answers its effect, reported, or a mere report (R34, R35). -/
theorem sameDriver_access {s effect : State} (ea : Nat) (h : SameDriver s effect) :
    SameDriver s (s.access ea effect) := by
  rcases s.access_cases ea effect with ⟨-, heq⟩ | ⟨-, heq⟩ <;> rw [heq]
  · exact h
  · exact sameDriver_report s _

/-! ## Every instruction -/

/-- Every instruction completes as an effect under the gate of its condition, and that effect keeps the parameters,
the stream, the fetch position and the record (R80, R120). -/
theorem exec_eq_gated (i : Instr) (s : State) :
    ∃ effect, exec i s = .next (gated i.cond s effect) ∧ SameDriver s effect := by
  cases i with
  | mul | cmp => exact ⟨_, rfl, by simp [SameDriver]⟩
  | addeq | add => exact ⟨_, rfl, (writesOnly_addInto ..).sameDriver⟩
  | subne | sub => exact ⟨_, rfl, (writesOnly_subInto ..).sameDriver⟩
  | lsl | lsr | asr | ror => exact ⟨_, rfl, (writesOnly_shiftInto ..).sameDriver⟩
  | and | orr | mov => exact ⟨_, rfl, (writesOnly_writeLogical ..).sameDriver⟩
  | ldr | str => exact ⟨_, rfl, sameDriver_access _ (by simp [SameDriver])⟩
  | b | bl | unknown | unknownDpImm | unknownDpReg => exact ⟨_, rfl, sameDriver_report s _⟩

theorem exec_sameDriver (i : Instr) (s : State) : ∃ t, exec i s = .next t ∧ SameDriver s t := by
  obtain ⟨effect, hexec, hdriver⟩ := exec_eq_gated i s
  exact ⟨_, hexec, sameDriver_gated i.cond hdriver⟩

/-! ## The step -/

theorem step_of_fetchWord_none {s : State} (h : s.fetchWord = none) : step s = .fault .runEnded := by
  simp [step, h]

/-- With a word fetched, the step completes; on the driver's side it does what presenting the record does and no
more (R17). -/
theorem step_of_fetchWord_some {s : State} {w : Word} (h : s.fetchWord = some w) :
    ∃ t, step s = .next t ∧ SameDriver (s.present (decodeRecord w)) t := by
  have hstep : step s = exec (decodeRecord w).instr (s.present (decodeRecord w)) := by simp [step, h, stepWord]
  rw [hstep]
  exact exec_sameDriver _ _

/-- Settles O50: a fetched word is presented before it is executed, and no instruction touches the driver's side. -/
theorem stepTakesWordsInOrder : Obligations.StepTakesWordsInOrder := by
  unfold Obligations.StepTakesWordsInOrder
  refine fun s => ⟨fun w hw => ?_, fun hnone t => ?_⟩
  · obtain ⟨t, hstep, hparams, hstream, hpos, hrecord⟩ := step_of_fetchWord_some hw
    exact ⟨t, hstep, hrecord, hpos, hstream, hparams⟩
  · simp [step_of_fetchWord_none hnone]

end Sys2Proof.Machine
end

section
/-! PROOFS. Words from bytes and bytes from words: the cutting of the instruction stream (R30, R32), data memory's
reads and writes (R36, R37) and the bounds check (R34). -/

namespace Sys2Proof.Machine

/-! ## Bytes as digits -/

/-- Putting a byte below a bit vector shifts it up by one base-256 digit. -/
theorem toNat_append_byte {w : Nat} (x : BitVec w) (b : Byte) : (x ++ b).toNat = x.toNat * 2 ^ 8 + b.toNat := by
  rw [BitVec.toNat_append, ← Nat.shiftLeft_add_eq_or_of_lt b.isLt, Nat.shiftLeft_eq]

theorem toNat_wordOfBigEndian (b0 b1 b2 b3 : Byte) : (wordOfBigEndian b0 b1 b2 b3).toNat =
    b0.toNat * 2 ^ 24 + b1.toNat * 2 ^ 16 + b2.toNat * 2 ^ 8 + b3.toNat := by
  simp only [wordOfBigEndian, toNat_append_byte]
  omega

/-- Data memory's byte order is the stream's, reversed (R29, R30). -/
theorem wordOfLittleEndian_eq (b0 b1 b2 b3 : Byte) : wordOfLittleEndian b0 b1 b2 b3 = wordOfBigEndian b3 b2 b1 b0 := rfl

theorem toNat_littleEndianByte (v : Word) (k : Nat) : (littleEndianByte v k).toNat = bits v (8 * k + 7) (8 * k) := by
  simp [littleEndianByte, bits, Nat.shiftRight_eq_div_pow]

/-! ## The stream -/

/-- Bytes that complete no word are at most three (R32). -/
theorem length_lt_four_of_incomplete {b : List Byte} (h : ∀ b0 b1 b2 b3 rest, b ≠ b0 :: b1 :: b2 :: b3 :: rest) :
    b.length < 4 := by
  match b with
  | [] | [_] | [_, _] | [_, _, _] => simp
  | b0 :: b1 :: b2 :: b3 :: rest => exact absurd rfl (h b0 b1 b2 b3 rest)

theorem length_cutWords (b : List Byte) : (cutWords b).length = b.length / 4 := by
  fun_induction cutWords b with
  | case1 b0 b1 b2 b3 rest ih => simp only [List.length_cons, ih]; omega
  | case2 b hshort => exact (Nat.div_eq_of_lt (length_lt_four_of_incomplete hshort)).symm

/-- Word `i` of a stream is made of the four bytes from `4 * i` on. -/
theorem getElem?_cutWords (b : List Byte) {i : Nat} (h : i < b.length / 4) : (cutWords b)[i]? =
    some (wordOfBigEndian (b.getD (4 * i) 0#8) (b.getD (4 * i + 1) 0#8) (b.getD (4 * i + 2) 0#8)
      (b.getD (4 * i + 3) 0#8)) := by
  fun_induction cutWords b generalizing i with
  | case1 b0 b1 b2 b3 rest ih =>
    cases i with
    | zero => rfl
    | succ i =>
      have hi : i < rest.length / 4 := by simp only [List.length_cons] at h; omega
      rw [List.getElem?_cons_succ, ih hi]
      rfl
  | case2 b hshort =>
    have hlen := length_lt_four_of_incomplete hshort
    omega

/-- Settles O17: the length of the cut stream, and the digits of the word at each place. -/
theorem streamCutIntoWords : Obligations.StreamCutIntoWords := by
  unfold Obligations.StreamCutIntoWords
  refine fun b => ⟨length_cutWords b, fun i hi => ?_⟩
  rw [getElem?_cutWords b hi, Option.map_some, toNat_wordOfBigEndian]

/-! ## Data memory -/

/-- Settles O20: a read word's digits are the four bytes, the last one the highest. -/
theorem memReadLittleEndian : Obligations.MemReadLittleEndian := by
  unfold Obligations.MemReadLittleEndian
  intro m ea
  rw [Memory.readWord, wordOfLittleEndian_eq, toNat_wordOfBigEndian]
  omega

/-- A written word leaves every byte outside its four as it was; no canonical form is needed. -/
theorem Memory.read_writeWord_of_outside (m : Memory) {ea a : Nat} (v : Word) (h : a < ea ∨ ea + 4 ≤ a) :
    (m.writeWord ea v).read a = m.read a := by
  have hne : a ≠ ea ∧ a ≠ ea + 1 ∧ a ≠ ea + 2 ∧ a ≠ ea + 3 := by omega
  obtain ⟨h0, h1, h2, h3⟩ := hne
  rw [Memory.writeWord, Memory.read_write_of_ne _ _ h3, Memory.read_write_of_ne _ _ h2,
    Memory.read_write_of_ne _ _ h1, Memory.read_write_of_ne _ _ h0]

/-- Reading back byte `k` of a written word: the later writes are at other addresses. -/
theorem Memory.read_writeWord {m : Memory} (ea : Nat) (v : Word) (h : m.wf = true) {k : Nat} (hk : k < 4) :
    (m.writeWord ea v).read (ea + k) = littleEndianByte v k := by
  have h0 := Memory.wf_write ea (littleEndianByte v 0) h
  have h1 := Memory.wf_write (ea + 1) (littleEndianByte v 1) h0
  have h2 := Memory.wf_write (ea + 2) (littleEndianByte v 2) h1
  rw [Memory.writeWord]
  match k, hk with
  | 0, _ =>
    rw [Memory.read_write_of_ne _ _ (by omega), Memory.read_write_of_ne _ _ (by omega),
      Memory.read_write_of_ne _ _ (by omega)]
    exact Memory.read_write_same h _ _
  | 1, _ =>
    rw [Memory.read_write_of_ne _ _ (by omega), Memory.read_write_of_ne _ _ (by omega)]
    exact Memory.read_write_same h0 _ _
  | 2, _ =>
    rw [Memory.read_write_of_ne _ _ (by omega)]
    exact Memory.read_write_same h1 _ _
  | 3, _ => exact Memory.read_write_same h2 _ _

/-- Settles O21: each of the four bytes reads back as the word's byte of that place, and the others are outside. -/
theorem memWriteLittleEndian : Obligations.MemWriteLittleEndian := by
  unfold Obligations.MemWriteLittleEndian
  intro m ea v hwf
  have hbyte (k : Nat) (hk : k < 4) : ((m.writeWord ea v).read (ea + k)).toNat = bits v (8 * k + 7) (8 * k) := by
    rw [Memory.read_writeWord ea v hwf hk, toNat_littleEndianByte]
  exact ⟨hbyte 0 (by decide), hbyte 1 (by decide), hbyte 2 (by decide), hbyte 3 (by decide),
    fun a ha => m.read_writeWord_of_outside v ha⟩

/-! ## The bounds check -/

theorem State.accepts_iff (s : State) (ea : Nat) : s.accepts ea = true ↔ ea + 4 ≤ s.params.memSize :=
  decide_eq_true_iff

theorem State.accepts_eq_false_iff (s : State) (ea : Nat) : s.accepts ea = false ↔ s.params.memSize < ea + 4 := by
  rw [← Bool.not_eq_true, s.accepts_iff, Nat.not_le]

/-- Settles O22: the check compares the address past the last byte with the size. -/
theorem boundsCheck : Obligations.BoundsCheck := by
  unfold Obligations.BoundsCheck
  intro s
  refine ⟨s.accepts_iff, fun hsize => ⟨?_, ?_⟩, fun hsmall ea => ?_⟩
  · exact (s.accepts_iff _).2 (by omega)
  · exact (s.accepts_eq_false_iff _).2 (by omega)
  · exact (s.accepts_eq_false_iff _).2 (by omega)

end Sys2Proof.Machine
end

section
/-! PROOFS. The decoder's field reads as numbers, and its five classes in order (R11, R50, R51); every class but data
processing, which follows (R53, R66, R67). -/

namespace Sys2Proof

open Machine

/-! ## Field reads as numbers -/

theorem toNat_extractLsb' (w : Word) (lo len : Nat) : (w.extractLsb' lo (len + 1)).toNat = bits w (lo + len) lo := by
  simp [bits, Nat.shiftRight_eq_div_pow]

theorem extractLsb'_eq_iff {len : Nat} (w : Word) (lo : Nat) (v : BitVec (len + 1)) :
    w.extractLsb' lo (len + 1) = v ↔ bits w (lo + len) lo = v.toNat := by
  rw [← BitVec.toNat_inj, toNat_extractLsb']

theorem getLsbD_iff (w : Word) (k : Nat) : w.getLsbD k = true ↔ bits w k k = 1 := by
  simp [bits, BitVec.getLsbD, Nat.testBit_eq_decide_div_mod_eq]

/-- A field within a field, read from the outer one. -/
theorem bits_of_bits {w : Word} {hi lo v : Nat} (h : bits w hi lo = v) (hi' lo' : Nat)
    (hin : lo ≤ lo' ∧ lo' ≤ hi' ∧ hi' ≤ hi) : bits w hi' lo' = v / 2 ^ (lo' - lo) % 2 ^ (hi' - lo' + 1) := by
  obtain ⟨hlo, hle, hhi⟩ := hin
  subst h
  apply Nat.eq_of_testBit_eq
  intro k
  simp only [bits, Nat.testBit_mod_two_pow, Nat.testBit_div_two_pow]
  rw [show k + (lo' - lo) + lo = k + lo' by omega]
  by_cases hk : k < hi' - lo' + 1
  · simp [hk, show k + (lo' - lo) < hi - lo + 1 by omega]
  · simp [hk]

@[simp] theorem toNat_condField (w : Word) : (condField w).toNat = bits w 31 28 := toNat_extractLsb' w 28 3
@[simp] theorem toNat_field19to16 (w : Word) : (field19to16 w).toNat = bits w 19 16 := toNat_extractLsb' w 16 3
@[simp] theorem toNat_field15to12 (w : Word) : (field15to12 w).toNat = bits w 15 12 := toNat_extractLsb' w 12 3
@[simp] theorem toNat_field11to8 (w : Word) : (field11to8 w).toNat = bits w 11 8 := toNat_extractLsb' w 8 3
@[simp] theorem toNat_field3to0 (w : Word) : (field3to0 w).toNat = bits w 3 0 := toNat_extractLsb' w 0 3
@[simp] theorem toNat_opcodeField (w : Word) : (opcodeField w).toNat = bits w 24 21 := toNat_extractLsb' w 21 3

theorem condField_eq_iff (w : Word) (cond : Cond) : condField w = cond ↔ bits w 31 28 = cond.toNat :=
  extractLsb'_eq_iff w 28 cond

theorem opcodeField_eq_iff (w : Word) (opcode : BitVec 4) : opcodeField w = opcode ↔ bits w 24 21 = opcode.toNat :=
  extractLsb'_eq_iff w 21 opcode

theorem field19to16_eq_iff (w : Word) (r : RegNum) : field19to16 w = r ↔ bits w 19 16 = r.toNat :=
  extractLsb'_eq_iff w 16 r

theorem bit20_iff (w : Word) : bit20 w = true ↔ bits w 20 20 = 1 := getLsbD_iff w 20

theorem isMultiply_iff (w : Word) : isMultiply w = true ↔ bits w 27 24 = 0 ∧ bits w 7 4 = 9 := by
  simp [isMultiply, extractLsb'_eq_iff]

/-! ## Classes -/

/-- The order of R51, with the classes' conditions read as numbers. -/
theorem decodeWord_eq (w : Word) : decodeWord w =
    if bits w 27 24 = 0 ∧ bits w 7 4 = 9 then decodeMultiply w
    else if bits w 27 26 = 0 then decodeDataProcessing w
    else if bits w 27 26 = 1 then decodeLoadStore w
    else if bits w 27 25 = 5 then decodeBranch w
    else .unknown (condField w) := by
  simp [decodeWord, isMultiply_iff, extractLsb'_eq_iff]

theorem decodeWord_of_multiply {w : Word} (h : bits w 27 24 = 0 ∧ bits w 7 4 = 9) :
    decodeWord w = decodeMultiply w := by
  rw [decodeWord_eq, if_pos h]

theorem decodeWord_of_dataProcessing {w : Word} (hclass : bits w 27 26 = 0)
    (hmul : ¬ (bits w 27 24 = 0 ∧ bits w 7 4 = 9)) : decodeWord w = decodeDataProcessing w := by
  rw [decodeWord_eq, if_neg hmul, if_pos hclass]

theorem decodeWord_of_loadStore {w : Word} (h : bits w 27 26 = 1) : decodeWord w = decodeLoadStore w := by
  have hmul : bits w 27 24 ≠ 0 := fun h0 => absurd (bits_of_bits h0 27 26 (by decide)) (by simp [h])
  simp [decodeWord_eq, hmul, h]

theorem decodeWord_of_branch {w : Word} (h : bits w 27 25 = 5) : decodeWord w = decodeBranch w := by
  have hmul : bits w 27 24 ≠ 0 := fun h0 => absurd (bits_of_bits h0 27 25 (by decide)) (by simp [h])
  have hclass : bits w 27 26 = 2 := bits_of_bits h 27 26 (by decide)
  simp [decodeWord_eq, hmul, hclass, h]

/-! ## Multiply, load/store, branch -/

/-- Settles O3: the class of multiplies is the first, and examines these eight bits alone. -/
theorem multiplyWordFields : Obligations.MultiplyWordFields := by
  unfold Obligations.MultiplyWordFields
  intro w hhigh hlow
  exact ⟨_, _, _, _, _, decodeWord_of_multiply ⟨hhigh, hlow⟩, toNat_condField w, bit20_iff w, toNat_field19to16 w,
    toNat_field11to8 w, toNat_field3to0 w⟩

/-- Settles O8: bit 20 picks the kind, and both kinds hold the same fields. -/
theorem loadStoreWordFields : Obligations.LoadStoreWordFields := by
  unfold Obligations.LoadStoreWordFields
  intro w hclass
  refine ⟨condField w, field19to16 w, field15to12 w, w.extractLsb' 0 12, ?_, toNat_condField w, toNat_field19to16 w,
    toNat_field15to12 w, toNat_extractLsb' w 0 11⟩
  simp only [decodeWord_of_loadStore hclass, decodeLoadStore, bit20_iff]

/-- Settles O9: bit 24 picks the kind, and both kinds hold the field below it as it stands. -/
theorem branchWordFields : Obligations.BranchWordFields := by
  unfold Obligations.BranchWordFields
  intro w hclass
  refine ⟨condField w, w.extractLsb' 0 24, ?_, toNat_condField w, toNat_extractLsb' w 0 23⟩
  simp only [decodeWord_of_branch hclass, decodeBranch, getLsbD_iff]

end Sys2Proof
end

section
/-! PROOFS. Data-processing words: the kind by opcode, and the fields that every kind's record keeps (R54 to R65,
R69, R70); the condition code of every word (R50). -/

namespace Sys2Proof

open Machine

/-! ## The fields of a data-processing record -/

/-- The record fields that a data-processing instruction answers, whatever its constructor (R54, R69, R70). -/
structure Instr.HasFields (i : Instr) (cond : Cond) (setFlags : Bool) (rn rd : RegNum) (op2 : Operand2) : Prop where
  cond_eq       : i.cond = cond
  setFlags_eq   : i.setFlags = setFlags
  rn_eq         : i.rn? = some rn
  rd_eq         : i.rd? = some rd
  operandSet_eq : i.operandSet? = some op2

/-- Only MUL has an `rm` that is not its operand 2's. -/
theorem Instr.rm?_of_operandSet? {i : Instr} {op2 : Operand2} (h : i.operandSet? = some op2) : i.rm? = op2.rm? := by
  cases i with
  | mul => cases h
  | _ => simp only [Instr.rm?, h, Option.bind_some]

/-- Only MUL has an `rs` that is not its operand 2's. -/
theorem Instr.rs?_of_operandSet? {i : Instr} {op2 : Operand2} (h : i.operandSet? = some op2) : i.rs? = op2.rs? := by
  cases i with
  | mul => cases h
  | _ => simp only [Instr.rs?, h, Option.bind_some]

/-- A shift kind's `rn` is 0 and its shift type is its name (R62). -/
theorem shiftKind_hasFields (cond : Cond) (s : Bool) (rd rm : RegNum) (amount : ShiftAmount) (ty : ShiftType) :
    (shiftKind cond s rd rm amount ty).HasFields cond s 0#4 rd (.reg rm ty amount) := by
  cases ty <;> exact ⟨rfl, rfl, rfl, rfl, rfl⟩

theorem decodeMove_hasFields (cond : Cond) (s : Bool) (rn rd : RegNum) (op2 : Operand2) :
    (decodeMove cond s rn rd op2).HasFields cond s rn rd op2 := by
  cases op2 with
  | imm value => exact ⟨rfl, rfl, rfl, rfl, rfl⟩
  | reg rm ty amount =>
    rw [decodeMove]
    split
    next hrn => exact hrn ▸ shiftKind_hasFields cond s rd rm amount ty
    next => exact ⟨rfl, rfl, rfl, rfl, rfl⟩

theorem decodeUnmapped_hasFields (cond : Cond) (s : Bool) (rn rd : RegNum) (op2 : Operand2) :
    (decodeUnmapped cond s rn rd op2).HasFields cond s rn rd op2 := by
  cases op2 <;> exact ⟨rfl, rfl, rfl, rfl, rfl⟩

/-- Every opcode keeps the fields it is given, but CMP sets `set_flags` (R55); ADDEQ and SUBNE hold no condition, and
are chosen under the one they answer (R64). -/
theorem decodeOpcode_hasFields (opcode : BitVec 4) (cond : Cond) (s : Bool) (rn rd : RegNum) (op2 : Operand2) :
    (decodeOpcode opcode cond s rn rd op2).HasFields cond (s || opcode == 0b1010#4) rn rd op2 := by
  by_cases hcmp : opcode = 0b1010#4
  · subst hcmp
    exact ⟨rfl, (Bool.or_true s).symm, rfl, rfl, rfl⟩
  · rw [beq_false_of_ne hcmp, Bool.or_false, decodeOpcode]
    split_ifs with _ _ hne _ heq
    · exact ⟨rfl, rfl, rfl, rfl, rfl⟩
    · exact ⟨hne.symm, rfl, rfl, rfl, rfl⟩
    · exact ⟨rfl, rfl, rfl, rfl, rfl⟩
    · exact ⟨heq.symm, rfl, rfl, rfl, rfl⟩
    · exact ⟨rfl, rfl, rfl, rfl, rfl⟩
    · exact ⟨rfl, rfl, rfl, rfl, rfl⟩
    · exact decodeMove_hasFields cond s rn rd op2
    · exact decodeUnmapped_hasFields cond s rn rd op2

theorem decodeDataProcessing_hasFields (w : Word) :
    (decodeDataProcessing w).HasFields (condField w) (bit20 w || opcodeField w == 0b1010#4) (field19to16 w)
      (field15to12 w) (operand2Field w) :=
  decodeOpcode_hasFields ..

/-! ## Conditions and registers -/

theorem decodeWord_cond (w : Word) : (decodeWord w).cond = condField w := by
  rw [decodeWord_eq]
  split_ifs
  · rfl
  · exact (decodeDataProcessing_hasFields w).cond_eq
  · rw [decodeLoadStore]; split <;> rfl
  · rw [decodeBranch]; split <;> rfl
  · rfl

/-- Settles O2: each of the five classes keeps the condition field. -/
theorem condOfEveryWord : Obligations.CondOfEveryWord := by
  unfold Obligations.CondOfEveryWord
  intro w
  rw [decodeRecord, decodeWord_cond, toNat_condField]

/-- Settles O5: the fields of a data-processing record, read as numbers. -/
theorem dataProcessingRegisters : Obligations.DataProcessingRegisters := by
  unfold Obligations.DataProcessingRegisters
  intro w hclass hmul
  obtain ⟨-, hsetFlags, hrn, hrd, -⟩ := decodeDataProcessing_hasFields w
  rw [decodeWord_of_dataProcessing hclass hmul]
  refine ⟨by simp [hrn], by simp [hrd], ?_⟩
  simp [hsetFlags, bit20_iff, opcodeField_eq_iff]

/-! ## Operand 2 -/

theorem toNat_ror32 (v : Word) (n : Nat) : (ror32 v n).toNat = ror32Nat v.toNat n := by
  rw [ror32, ror32Nat]
  split
  · rfl
  · have hquot : v.toNat / 2 ^ n < 2 ^ 32 := (Nat.div_le_self _ _).trans_lt v.isLt
    rw [BitVec.toNat_or, BitVec.toNat_ushiftRight, BitVec.toNat_shiftLeft, Nat.shiftRight_eq_div_pow,
      Nat.shiftLeft_eq, Nat.or_mod_two_pow, Nat.mod_eq_of_lt hquot]

theorem toNat_rotateImmediate (rotate : BitVec 4) (imm8 : BitVec 8) :
    (rotateImmediate rotate imm8).toNat = ror32Nat imm8.toNat (2 * rotate.toNat) := by
  rw [rotateImmediate, toNat_ror32, BitVec.toNat_setWidth_of_le (by decide)]

theorem operand2Field_of_immediate {w : Word} (h : bits w 25 25 = 1) :
    operand2Field w = .imm (rotateImmediate (field11to8 w) (w.extractLsb' 0 8)) :=
  if_pos ((getLsbD_iff w 25).2 h)

theorem operand2Field_of_register {w : Word} (h : bits w 25 25 ≠ 1) :
    operand2Field w = .reg (field3to0 w) (shiftTypeOf (w.extractLsb' 5 2)) (shiftAmountField w) :=
  if_neg (mt (getLsbD_iff w 25).1 h)

theorem shiftAmountField_of_immediate {w : Word} (h : bits w 4 4 ≠ 1) :
    shiftAmountField w = .imm (w.extractLsb' 7 5) :=
  if_neg (mt (getLsbD_iff w 4).1 h)

theorem shiftAmountField_of_register {w : Word} (h : bits w 4 4 = 1) : shiftAmountField w = .reg (field11to8 w) :=
  if_pos ((getLsbD_iff w 4).2 h)

/-- Reading a shift type loses no bit (R59). -/
theorem bits_shiftTypeOf : ∀ ty : BitVec 2, (shiftTypeOf ty).bits = ty := by decide

theorem toNat_bits_shiftTypeOf (w : Word) : (shiftTypeOf (w.extractLsb' 5 2)).bits.toNat = bits w 6 5 := by
  rw [bits_shiftTypeOf, toNat_extractLsb']

/-- Settles O6: the record's operand 2 is the word's, by form; a register operand has one amount, by bit 4. -/
theorem operand2Fields : Obligations.Operand2Fields := by
  unfold Obligations.Operand2Fields
  intro w hclass hmul
  have hset := (decodeDataProcessing_hasFields w).operandSet_eq
  simp only [decodeWord_of_dataProcessing hclass hmul, Instr.rm?_of_operandSet? hset, Instr.rs?_of_operandSet? hset,
    Instr.operand2?, Instr.shiftType?, Instr.shiftAmount?, hset, Option.bind_some]
  refine ⟨fun himm => ?_, fun hreg => ?_⟩
  · rw [operand2Field_of_immediate himm]
    refine ⟨congrArg some ?_, rfl, rfl, rfl, rfl⟩
    rw [toNat_rotateImmediate, toNat_extractLsb', toNat_field11to8]
  · rw [operand2Field_of_register (by omega)]
    refine ⟨rfl, congrArg some (toNat_field3to0 w), congrArg some (toNat_bits_shiftTypeOf w), fun hamount => ?_,
      fun hamount => ?_⟩
    · rw [shiftAmountField_of_immediate (by omega)]
      exact ⟨congrArg some (toNat_extractLsb' w 7 4), rfl⟩
    · rw [shiftAmountField_of_register hamount]
      exact ⟨congrArg some (toNat_field11to8 w), rfl⟩

/-! ## Kinds -/

/-- SUB is SUBNE under condition NE (R64). -/
theorem decodeOpcode_sub (cond : Cond) (s : Bool) (rn rd : RegNum) (op2 : Operand2) :
    decodeOpcode 0b0010#4 cond s rn rd op2 =
      if cond = Cond.ne then .subne s rn rd op2 else .sub cond s rn rd op2 := rfl

/-- ADD is ADDEQ under condition EQ (R64). -/
theorem decodeOpcode_add (cond : Cond) (s : Bool) (rn rd : RegNum) (op2 : Operand2) :
    decodeOpcode 0b0100#4 cond s rn rd op2 =
      if cond = Cond.eq then .addeq s rn rd op2 else .add cond s rn rd op2 := rfl

/-- A register-form MOV is a shift kind under `rn` = 0 (R62). -/
theorem decodeOpcode_registerMove (cond : Cond) (s : Bool) (rn rd rm : RegNum) (ty : ShiftType) (amount : ShiftAmount) :
    decodeOpcode 0b1101#4 cond s rn rd (.reg rm ty amount) =
      if rn = 0#4 then shiftKind cond s rd rm amount ty else .mov cond s rn rd (.reg rm ty amount) := rfl

/-- The ten opcodes that R55 leaves out are the ones that differ from its six. -/
theorem decodeOpcode_of_unmapped {opcode : BitVec 4} (cond : Cond) (s : Bool) (rn rd : RegNum) (op2 : Operand2)
    (h : opcode.toNat ∈ [0b0001, 0b0011, 0b0101, 0b0110, 0b0111, 0b1000, 0b1001, 0b1011, 0b1110, 0b1111]) :
    decodeOpcode opcode cond s rn rd op2 = decodeUnmapped cond s rn rd op2 := by
  have hne : opcode ≠ 0b0000#4 ∧ opcode ≠ 0b0010#4 ∧ opcode ≠ 0b0100#4 ∧ opcode ≠ 0b1010#4 ∧
      opcode ≠ 0b1100#4 ∧ opcode ≠ 0b1101#4 := by
    revert opcode
    decide
  simp [decodeOpcode, hne]

theorem kind_decodeUnmapped (w : Word) (cond : Cond) (s : Bool) (rn rd : RegNum) :
    (decodeUnmapped cond s rn rd (operand2Field w)).kind =
      if bits w 25 25 = 1 then .unknownDpImm else .unknownDpReg := by
  split
  next himm => rw [operand2Field_of_immediate himm, decodeUnmapped]; rfl
  next hreg => rw [operand2Field_of_register hreg, decodeUnmapped]; rfl

theorem kind_shiftKind (cond : Cond) (s : Bool) (rd rm : RegNum) (amount : ShiftAmount) (ty : BitVec 2) :
    (shiftKind cond s rd rm amount (shiftTypeOf ty)).kind =
      if ty = 0b00#2 then .lsl else if ty = 0b01#2 then .lsr else if ty = 0b10#2 then .asr else .ror := by
  rw [shiftTypeOf]
  split_ifs <;> rfl

/-- A word whose bits 24 to 21 spell an opcode decodes by it. -/
theorem decodeDataProcessing_of_opcode {w : Word} (opcode : BitVec 4) (h : bits w 24 21 = opcode.toNat) :
    decodeDataProcessing w =
      decodeOpcode opcode (condField w) (bit20 w) (field19to16 w) (field15to12 w) (operand2Field w) := by
  rw [decodeDataProcessing, (opcodeField_eq_iff w opcode).2 h]

theorem kind_of_immediateMove {w : Word} (hop : bits w 24 21 = 0b1101) (hform : bits w 25 25 = 1) :
    (decodeDataProcessing w).kind = .mov := by
  rw [decodeDataProcessing_of_opcode 0b1101#4 hop, operand2Field_of_immediate hform]
  rfl

/-- The choice of R62, read off the word's bits 19 to 16. -/
theorem decodeDataProcessing_of_registerMove {w : Word} (hop : bits w 24 21 = 0b1101) (hform : bits w 25 25 ≠ 1) :
    decodeDataProcessing w =
      if bits w 19 16 = 0 then
        shiftKind (condField w) (bit20 w) (field15to12 w) (field3to0 w) (shiftAmountField w)
          (shiftTypeOf (w.extractLsb' 5 2))
      else .mov (condField w) (bit20 w) (field19to16 w) (field15to12 w) (operand2Field w) := by
  rw [decodeDataProcessing_of_opcode 0b1101#4 hop, operand2Field_of_register hform, decodeOpcode_registerMove]
  exact if_congr (field19to16_eq_iff w 0#4) rfl rfl

/-- Settles O4: one opcode after the other, as `decodeOpcode` tries them; MOV by its form and `rn`. -/
theorem dataProcessingKinds : Obligations.DataProcessingKinds := by
  unfold Obligations.DataProcessingKinds
  intro w hclass hmul
  rw [decodeWord_of_dataProcessing hclass hmul]
  refine ⟨fun hand => ?_, fun hsub => ?_, fun hadd => ?_, fun hcmp => ?_, fun horr => ?_, kind_of_immediateMove,
    fun hmov hform hrn => ?_, fun hmov hform hrn => ?_, fun hunmapped => ?_⟩
  · rw [decodeDataProcessing_of_opcode 0b0000#4 hand]; rfl
  · rw [decodeDataProcessing_of_opcode 0b0010#4 hsub, decodeOpcode_sub, apply_ite Instr.kind]
    exact if_congr (condField_eq_iff w Cond.ne) rfl rfl
  · rw [decodeDataProcessing_of_opcode 0b0100#4 hadd, decodeOpcode_add, apply_ite Instr.kind]
    exact if_congr (condField_eq_iff w Cond.eq) rfl rfl
  · rw [decodeDataProcessing_of_opcode 0b1010#4 hcmp]; exact ⟨rfl, rfl⟩
  · rw [decodeDataProcessing_of_opcode 0b1100#4 horr]; rfl
  · rw [decodeDataProcessing_of_registerMove hmov (by omega), if_neg hrn]; rfl
  · rw [decodeDataProcessing_of_registerMove hmov (by omega), if_pos hrn, kind_shiftKind]
    simp [extractLsb'_eq_iff]
  · rw [decodeDataProcessing, decodeOpcode_of_unmapped _ _ _ _ _ (by rwa [toNat_opcodeField]), kind_decodeUnmapped]

/-- Settles O7: the self-rotate form needs no case of its own, since `rm` and `rd` are one field value (R63, C3). -/
theorem selfRotateIsRor : Obligations.SelfRotateIsRor := by
  unfold Obligations.SelfRotateIsRor
  intro w hclass hop hrn hshift hself
  have hdp : bits w 27 26 = 0 := bits_of_bits hclass 27 26 (by decide)
  have hreg : bits w 25 25 = 0 := bits_of_bits hclass 25 25 (by decide)
  have hmul : bits w 27 24 ≠ 0 := fun h0 =>
    absurd ((bits_of_bits h0 24 24 (by decide)).symm.trans (bits_of_bits hop 24 24 (by decide))) (by decide)
  have hty : bits w 6 5 = 3 := bits_of_bits hshift 6 5 (by decide)
  have himm : bits w 4 4 = 0 := bits_of_bits hshift 4 4 (by decide)
  have hror : w.extractLsb' 5 2 = 0b11#2 := (extractLsb'_eq_iff w 5 _).2 hty
  have hrm : field3to0 w = field15to12 w := by
    rw [← BitVec.toNat_inj, toNat_field3to0, toNat_field15to12, hself]
  rw [decodeWord_of_dataProcessing hdp (fun h => hmul h.1), decodeDataProcessing_of_registerMove hop (by omega),
    if_pos hrn, hror, shiftAmountField_of_immediate (by omega)]
  exact ⟨rfl, congrArg some (toNat_field15to12 w), congrArg some hrm, rfl, rfl,
    congrArg some (toNat_extractLsb' w 7 4)⟩

end Sys2Proof
end

section
/-! PROOFS. The barrel shifter as arithmetic on numbers, one equation per shift type, and the resolver of operand 2
(R85 to R90). -/

namespace Sys2Proof.Machine

/-! ## The two's complement reading -/

theorem sext32_toNat (v : Word) : sext32 v.toNat = v.toInt := by
  rw [sext32, BitVec.toInt_eq_toNat_cond]
  exact if_congr (by omega) rfl rfl

theorem toNat_eq_toInt_emod (v : Word) : (v.toNat : Int) = v.toInt % 2 ^ 32 := by
  rw [BitVec.toInt_eq_toNat_cond]
  split <;> omega

/-! ## The four shifts -/

theorem toNat_shift_lsl (v : Word) (n : Nat) : (shift .lsl v n).toNat = v.toNat * 2 ^ n % 2 ^ 32 := by
  rw [shift, shiftLsl, BitVec.toNat_shiftLeft, Nat.shiftLeft_eq]

theorem toNat_shift_lsr (v : Word) (n : Nat) : (shift .lsr v n).toNat = v.toNat / 2 ^ n := by
  rw [shift, shiftLsr, BitVec.toNat_ushiftRight, Nat.shiftRight_eq_div_pow]

/-- The arithmetic shift divides the two's complement reading, rounding down (R89). -/
theorem toNat_shift_asr (v : Word) (n : Nat) :
    ((shift .asr v n).toNat : Int) = sext32 v.toNat / 2 ^ n % 2 ^ 32 := by
  have hdiv : (v.sshiftRight n).toInt = v.toInt / 2 ^ n := by
    rw [BitVec.toInt_sshiftRight, Int.shiftRight_eq_div_pow, Nat.cast_pow, Nat.cast_ofNat]
  rw [shift, shiftAsr, toNat_eq_toInt_emod, hdiv, sext32_toNat]

theorem toNat_shift_ror (v : Word) (n : Nat) : (shift .ror v n).toNat = ror32Nat v.toNat n := toNat_ror32 v n

/-- Settles O18: the four equations, which need no bound on the amount. -/
theorem barrelShifterResults : Obligations.BarrelShifterResults := by
  unfold Obligations.BarrelShifterResults
  intro v n _
  exact ⟨toNat_shift_lsl v n, toNat_shift_lsr v n, toNat_shift_asr v n, toNat_shift_ror v n⟩

/-! ## The resolver -/

/-- Every shift by 0 gives the value itself (R87 to R90). -/
@[simp] theorem shift_zero (ty : ShiftType) (v : Word) : shift ty v 0 = v := by
  cases ty with
  | lsl => exact BitVec.shiftLeft_zero v
  | lsr => exact BitVec.ushiftRight_zero v
  | asr => exact BitVec.sshiftRight_zero
  | ror => rfl

/-- The amount in a register is its low five bits (R86). -/
theorem State.shiftAmount_reg (s : State) (rs : RegNum) : s.shiftAmount (.reg rs) = bits (s.reg rs) 4 0 := by
  simp [State.shiftAmount, bits]

/-- Settles O19: one clause per form of operand 2 and of its shift descriptor; the missing descriptor shifts by 0. -/
theorem operand2Resolution : Obligations.Operand2Resolution := by
  unfold Obligations.Operand2Resolution
  intro s
  refine ⟨fun v => rfl, fun rm ty n => rfl, fun rm ty rs => ?_, fun rm ty => ?_⟩
  · rw [State.operand2, State.shiftAmount_reg]
  · exact shift_zero ty (s.reg rm)

end Sys2Proof.Machine
end

section
/-! PROOFS. The flags after an instruction, said once for all twenty kinds, and what each kind may write of them
(R19, R92 to R95, R112). -/

namespace Sys2Proof

open Machine

/-- The flags an instruction leaves when its gate is open and it asks for them: those of its result, or, for the
kinds that write none, the old ones. -/
def Instr.requestedFlags (s : State) : Instr → Flags
  | .mul _ _ _ rs rm => s.flagsMul (s.reg rm * s.reg rs)
  | .addeq _ rn _ op2 | .add _ _ rn _ op2 => flagsAdd (s.reg rn) (s.operand2 op2)
  | .subne _ rn _ op2 | .sub _ _ rn _ op2 | .cmp _ rn _ op2 => flagsSub (s.reg rn) (s.operand2 op2)
  | .lsl _ _ _ rm amount => flagsNZ s.flags (s.operand2 (.reg rm .lsl amount))
  | .lsr _ _ _ rm amount => flagsNZ s.flags (s.operand2 (.reg rm .lsr amount))
  | .asr _ _ _ rm amount => flagsNZ s.flags (s.operand2 (.reg rm .asr amount))
  | .ror _ _ _ rm amount => flagsNZ s.flags (s.operand2 (.reg rm .ror amount))
  | .and _ _ rn _ op2 => flagsNZ s.flags (s.reg rn &&& s.operand2 op2)
  | .orr _ _ rn _ op2 => flagsNZ s.flags (s.reg rn ||| s.operand2 op2)
  | .mov _ _ _ _ op2 => flagsNZ s.flags (s.operand2 op2)
  | .ldr .. | .str .. | .b .. | .bl .. | .unknown .. | .unknownDpImm .. | .unknownDpReg .. => s.flags

/-! ## The effects -/

@[simp] theorem flags_shiftInto (s : State) (w : Bool) (rd rm : RegNum) (ty : ShiftType) (amount : ShiftAmount) :
    (s.shiftInto w rd rm ty amount).flags =
      if w then flagsNZ s.flags (s.operand2 (.reg rm ty amount)) else s.flags :=
  s.flags_writeLogical w rd _

/-- An access whose effect writes no flag writes none, accepted or rejected (R34, R35). -/
theorem flags_access {s effect : State} (ea : Nat) (h : effect.flags = s.flags) :
    (s.access ea effect).flags = s.flags := by
  rcases s.access_cases ea effect with ⟨-, heq⟩ | ⟨-, heq⟩ <;> rw [heq]
  · exact h
  · rfl

/-- Every instruction is a gated effect that writes the requested flags if `set_flags` asks for them (R80, R95). -/
theorem exec_eq_gated_flags (i : Instr) (s : State) : ∃ effect, exec i s = .next (gated i.cond s effect) ∧
    effect.flags = if i.setFlags then i.requestedFlags s else s.flags := by
  cases i with
  | mul => exact ⟨_, rfl, (State.drawsAfterMul_flags ..).trans (State.setFlagsIf_flags ..)⟩
  | cmp => exact ⟨_, rfl, State.setFlagsIf_flags ..⟩
  | addeq | add => exact ⟨_, rfl, s.flags_addInto ..⟩
  | subne | sub => exact ⟨_, rfl, s.flags_subInto ..⟩
  | lsl | lsr | asr | ror => exact ⟨_, rfl, flags_shiftInto ..⟩
  | and | orr | mov => exact ⟨_, rfl, s.flags_writeLogical ..⟩
  | ldr | str => exact ⟨_, rfl, flags_access _ rfl⟩
  | b | bl | unknown | unknownDpImm | unknownDpReg => exact ⟨_, rfl, (ite_self s.flags).symm⟩

/-- The flags of a completed instruction are the old ones, or it asked for new ones and they are those. -/
theorem exec_flags_cases {i : Instr} {s t : State} (h : exec i s = .next t) :
    t.flags = s.flags ∨ (i.setFlags = true ∧ t.flags = i.requestedFlags s) := by
  obtain ⟨effect, hexec, hflags⟩ := exec_eq_gated_flags i s
  obtain rfl : gated i.cond s effect = t := Host.Outcome.next.inj (hexec.symm.trans h)
  rcases gated_cases i.cond s effect with ⟨-, heq⟩ | ⟨-, heq⟩ <;> rw [heq]
  · cases hset : i.setFlags with
    | true => exact .inr ⟨rfl, by rw [hflags, if_pos hset]⟩
    | false => exact .inl (by simp [hflags, hset])
  · exact .inl rfl

/-! ## What a kind may request -/

theorem requestedFlags_of_noFlagKind {i : Instr} (s : State)
    (h : i.kind ∈ [.ldr, .str, .b, .bl, .unknown, .unknownDpImm, .unknownDpReg]) : i.requestedFlags s = s.flags := by
  cases i with
  | ldr | str | b | bl | unknown | unknownDpImm | unknownDpReg => rfl
  | _ => simp [Instr.kind] at h

theorem requestedFlags_keeps_cv {i : Instr} (s : State)
    (h : i.kind ∈ [.mov, .and, .orr, .lsl, .lsr, .asr, .ror]) :
    (i.requestedFlags s).c = s.flags.c ∧ (i.requestedFlags s).v = s.flags.v := by
  cases i with
  | mov | and | orr | lsl | lsr | asr | ror => exact ⟨rfl, rfl⟩
  | _ => simp [Instr.kind] at h

theorem requestedFlags_mul_keeps_cv {i : Instr} {s : State} (h : i.kind = .mul) (hcv : s.params.mulsCV = .preserve) :
    (i.requestedFlags s).c = s.flags.c ∧ (i.requestedFlags s).v = s.flags.v := by
  cases i with
  | mul _ _ _ rs rm =>
    obtain ⟨-, -, hkeep⟩ := s.flagsMul_cases (s.reg rm * s.reg rs)
    exact hkeep hcv
  | _ => simp [Instr.kind] at h

/-- Settles O39: unwritten flags satisfy every clause, and requested ones are bound by the kind. -/
theorem flagsWrittenOnlyOnRequest : Obligations.FlagsWrittenOnlyOnRequest := by
  unfold Obligations.FlagsWrittenOnlyOnRequest
  intro i s t h
  rcases exec_flags_cases h with hsame | ⟨hset, hnew⟩
  · rw [hsame]
    exact ⟨fun _ => rfl, fun _ => rfl, fun _ => ⟨rfl, rfl⟩, fun _ _ => ⟨rfl, rfl⟩⟩
  · rw [hnew]
    exact ⟨fun hunset => by simp [hunset] at hset, requestedFlags_of_noFlagKind s, requestedFlags_keeps_cv s,
      requestedFlags_mul_keeps_cv⟩

end Sys2Proof
end

section
/-! PROOFS. Decoding a written word: each field of the encoder's words read back, the immediate's rotation undone, and
the round trip kind by kind (sections 3 to 8 of the encoding). -/

namespace Sys2Proof

open Machine

/-! ## The last class -/

/-- Bits 27 to 25 that fit none of the four other classes (R68). -/
theorem decodeWord_of_unknown {w : Word} (h : bits w 27 25 ∈ [0b100, 0b110, 0b111]) :
    decodeWord w = .unknown (condField w) := by
  have hmul : bits w 27 24 ≠ 0 := by
    intro h0
    rw [bits_of_bits h0 27 25 (by decide)] at h
    simp at h
  have hclass : bits w 27 26 = bits w 27 25 / 2 % 2 ^ 2 := bits_of_bits rfl 27 26 (by decide)
  simp only [List.mem_cons, List.not_mem_nil, or_false] at h
  rw [decodeWord_eq, if_neg (fun hmultiply => hmul hmultiply.1), if_neg (by omega), if_neg (by omega),
    if_neg (by omega)]

/-! ## Fields of a data-processing word -/

section DataProcessing

variable (cond : Cond) (opcode : BitVec 4) (s : Bool) (rn rd : RegNum) (op2 : Operand2)

/-- The class, the opcode and the two registers stand where the decoder looks for them (R54). -/
theorem fields_encodeDataProcessing :
    (encodeDataProcessing cond opcode s rn rd op2).extractLsb' 26 2 = 0b00#2 ∧
    opcodeField (encodeDataProcessing cond opcode s rn rd op2) = opcode ∧
    field19to16 (encodeDataProcessing cond opcode s rn rd op2) = rn ∧
    field15to12 (encodeDataProcessing cond opcode s rn rd op2) = rd := by
  simp (disch := decide) only [encodeDataProcessing, opcodeField, field19to16, field15to12,
    BitVec.extractLsb'_append_eq_of_le, BitVec.extractLsb'_append_eq_of_add_le, Nat.reduceSub,
    BitVec.extractLsb'_eq_self, and_self]

theorem bit20_encodeDataProcessing : bit20 (encodeDataProcessing cond opcode s rn rd op2) = s := by
  simp only [encodeDataProcessing, bit20, BitVec.getLsbD_append]
  simp

theorem getLsbD_25_encodeDataProcessing :
    (encodeDataProcessing cond opcode s rn rd op2).getLsbD 25 = op2.immediateBit.getLsbD 0 := by
  simp only [encodeDataProcessing, BitVec.getLsbD_append]
  simp

/-- Bits 11 to 0 are operand 2's. -/
theorem getLsbD_encodeDataProcessing_of_lt {k : Nat} (h : k < 12) :
    (encodeDataProcessing cond opcode s rn rd op2).getLsbD k = (encodeOperand2 op2).getLsbD k := by
  simp only [encodeDataProcessing, BitVec.getLsbD_append]
  simp [h]

theorem extractLsb'_encodeDataProcessing_of_le {lo len : Nat} (h : lo + len ≤ 12) :
    (encodeDataProcessing cond opcode s rn rd op2).extractLsb' lo len = (encodeOperand2 op2).extractLsb' lo len := by
  simp only [encodeDataProcessing, BitVec.extractLsb'_append_eq_of_add_le h]

end DataProcessing

/-! ## Operand 2 -/

/-- The fields an encoder finds for an immediate resolve to it (R57). -/
theorem rotateImmediate_of_immediateFields? {value : Word} {fields : BitVec 4 × BitVec 8}
    (h : immediateFields? value = some fields) : rotateImmediate fields.1 fields.2 = value := by
  obtain ⟨rotate, -, hbyte⟩ := List.exists_of_findSome?_eq_some h
  simp only [immediateByte?, Option.ite_none_right_eq_some, Option.some.injEq] at hbyte
  obtain ⟨hvalue, rfl⟩ := hbyte
  exact hvalue

theorem shiftTypeOf_bits (ty : ShiftType) : shiftTypeOf ty.bits = ty := by
  cases ty <;> rfl

theorem operand2Field_encodeDataProcessing (cond : Cond) (opcode : BitVec 4) (s : Bool) (rn rd : RegNum)
    {op2 : Operand2} (h : op2.wellFormed = true) :
    operand2Field (encodeDataProcessing cond opcode s rn rd op2) = op2 := by
  have hlow (lo len : Nat) := @extractLsb'_encodeDataProcessing_of_le cond opcode s rn rd op2 lo len
  rw [operand2Field, getLsbD_25_encodeDataProcessing]
  simp (disch := decide) only [shiftAmountField, getLsbD_encodeDataProcessing_of_lt, field11to8, field3to0, hlow]
  match op2 with
  | .imm value =>
    obtain ⟨fields, hfields⟩ := Option.isSome_iff_exists.1 h
    rw [Operand2.immediateBit, if_pos (by decide), encodeOperand2, hfields, Option.getD_some]
    simp (disch := decide) only [BitVec.extractLsb'_append_eq_left, BitVec.extractLsb'_append_eq_right,
      rotateImmediate_of_immediateFields? hfields]
  | .reg rm ty (.imm _) | .reg rm ty (.reg _) =>
    simp (disch := decide) only [Operand2.immediateBit, encodeOperand2, BitVec.extractLsb'_append_eq_of_le,
      BitVec.extractLsb'_append_eq_of_add_le, Nat.reduceSub, BitVec.extractLsb'_eq_self, BitVec.getLsbD_append,
      shiftTypeOf_bits]
    simp
  | .reg _ _ .none => cases h

/-- An immediate form has bit 25 set, which a multiply has not; a register form has not both bit 7 and bit 4 set, as a
multiply has (R51, R58). -/
theorem not_multiply_encodeDataProcessing (cond : Cond) (opcode : BitVec 4) (s : Bool) (rn rd : RegNum)
    (op2 : Operand2) : ¬ (bits (encodeDataProcessing cond opcode s rn rd op2) 27 24 = 0 ∧
      bits (encodeDataProcessing cond opcode s rn rd op2) 7 4 = 9) := by
  rintro ⟨hhigh, hlow⟩
  have h25 : (encodeDataProcessing cond opcode s rn rd op2).getLsbD 25 ≠ true := by
    rw [Ne, getLsbD_iff, bits_of_bits hhigh 25 25 (by decide)]
    decide
  have h7 := (getLsbD_iff _ 7).2 (bits_of_bits hlow 7 7 (by decide))
  have h4 := (getLsbD_iff _ 4).2 (bits_of_bits hlow 4 4 (by decide))
  rw [getLsbD_25_encodeDataProcessing] at h25
  rw [getLsbD_encodeDataProcessing_of_lt _ _ _ _ _ _ (by decide)] at h7 h4
  match op2 with
  | .imm _ => simp [Operand2.immediateBit] at h25
  | .reg _ _ (.imm _) | .reg _ _ .none =>
    simp only [encodeOperand2, BitVec.getLsbD_append] at h4
    simp at h4
  | .reg _ _ (.reg _) =>
    simp only [encodeOperand2, BitVec.getLsbD_append] at h7
    simp at h7

/-! ## The classes -/

/-- A data-processing word decodes by the opcode, with the fields it was written from. -/
theorem decodeWord_encodeDataProcessing (cond : Cond) (opcode : BitVec 4) (s : Bool) (rn rd : RegNum)
    {op2 : Operand2} (h : op2.wellFormed = true) :
    decodeWord (encodeDataProcessing cond opcode s rn rd op2) = decodeOpcode opcode cond s rn rd op2 := by
  obtain ⟨hclass, hopcode, hrn, hrd⟩ := fields_encodeDataProcessing cond opcode s rn rd op2
  rw [decodeWord_of_dataProcessing ((extractLsb'_eq_iff _ 26 0b00#2).1 hclass)
    (not_multiply_encodeDataProcessing cond opcode s rn rd op2), decodeDataProcessing, hopcode, hrn, hrd,
    Laws.EncodeCond.encodeDataProcessing_cond, bit20_encodeDataProcessing,
    operand2Field_encodeDataProcessing cond opcode s rn rd h]

theorem decodeWord_encodeLoadStore (cond : Cond) (load : Bool) (rn rd : RegNum) (offset : BitVec 12) :
    decodeWord (encodeLoadStore cond load rn rd offset) =
      if load then .ldr cond rn rd offset else .str cond rn rd offset := by
  have hclass : bits (encodeLoadStore cond load rn rd offset) 27 26 = 1 := by
    refine (extractLsb'_eq_iff _ 26 1#2).1 ?_
    simp (disch := decide) only [encodeLoadStore, BitVec.extractLsb'_append_eq_of_le,
      BitVec.extractLsb'_append_eq_of_add_le, Nat.reduceSub, BitVec.extractLsb'_eq_self]
  have hload : bit20 (encodeLoadStore cond load rn rd offset) = load := by
    simp only [encodeLoadStore, bit20, BitVec.getLsbD_append]
    simp
  rw [decodeWord_of_loadStore hclass, decodeLoadStore, hload, Laws.EncodeCond.encodeLoadStore_cond]
  simp (disch := decide) only [encodeLoadStore, field19to16, field15to12, BitVec.extractLsb'_append_eq_of_le,
    BitVec.extractLsb'_append_eq_of_add_le, Nat.reduceSub, BitVec.extractLsb'_eq_self]

theorem decodeWord_encodeBranch (cond : Cond) (link : Bool) (offset : BitVec 24) :
    decodeWord (encodeBranch cond link offset) = if link then .bl cond offset else .b cond offset := by
  have hclass : bits (encodeBranch cond link offset) 27 25 = 5 := by
    refine (extractLsb'_eq_iff _ 25 5#3).1 ?_
    simp (disch := decide) only [encodeBranch, BitVec.extractLsb'_append_eq_of_le,
      BitVec.extractLsb'_append_eq_of_add_le, Nat.reduceSub, BitVec.extractLsb'_eq_self]
  have hlink : (encodeBranch cond link offset).getLsbD 24 = link := by
    simp only [encodeBranch, BitVec.getLsbD_append]
    simp
  rw [decodeWord_of_branch hclass, decodeBranch, hlink, Laws.EncodeCond.encodeBranch_cond]
  simp (disch := decide) only [encodeBranch, BitVec.extractLsb'_append_eq_of_add_le, BitVec.extractLsb'_eq_self]

theorem decodeWord_encode_mul (cond : Cond) (s : Bool) (rd rs rm : RegNum) :
    decodeWord (encode (.mul cond s rd rs rm)) = .mul cond s rd rs rm := by
  have hclass : isMultiply (encode (.mul cond s rd rs rm)) = true := by
    simp (disch := decide) only [isMultiply, encode, BitVec.extractLsb'_append_eq_of_le,
      BitVec.extractLsb'_append_eq_of_add_le, Nat.reduceSub, BitVec.extractLsb'_eq_self,
      beq_self_eq_true, Bool.and_self]
  have hset : bit20 (encode (.mul cond s rd rs rm)) = s := by
    simp only [encode, bit20, BitVec.getLsbD_append]
    simp
  rw [decodeWord_of_multiply ((isMultiply_iff _).1 hclass), decodeMultiply, hset]
  simp (disch := decide) only [encode, condField, field19to16, field11to8, field3to0,
    BitVec.extractLsb'_append_eq_of_le, BitVec.extractLsb'_append_eq_of_add_le, Nat.reduceSub,
    BitVec.extractLsb'_eq_self]

theorem decodeWord_encode_unknown (cond : Cond) : decodeWord (encode (.unknown cond)) = .unknown cond := by
  have hclass : bits (encode (.unknown cond)) 27 25 = 4 := by
    refine (extractLsb'_eq_iff _ 25 4#3).1 ?_
    simp (disch := decide) only [encode, BitVec.extractLsb'_append_eq_of_le,
      BitVec.extractLsb'_append_eq_of_add_le, Nat.reduceSub, BitVec.extractLsb'_eq_self]
  rw [decodeWord_of_unknown (by rw [hclass]; decide)]
  exact congrArg Instr.unknown (Laws.EncodeCond.unknown cond)

/-- Settles O15: data-processing kinds by their opcode, the other classes by their own lemma. Well-formedness is what
keeps ADD under EQ, SUB under NE and a register-form MOV with `rn` = 0 from being another kind (R62, R64). -/
theorem decodeEncodeRoundTrip : Obligations.DecodeEncodeRoundTrip := by
  unfold Obligations.DecodeEncodeRoundTrip
  intro i h
  cases i with
  | mul => exact decodeWord_encode_mul ..
  | ldr | str => exact decodeWord_encodeLoadStore ..
  | b | bl => exact decodeWord_encodeBranch ..
  | unknown => exact decodeWord_encode_unknown _
  | lsl | lsr | asr | ror => exact decodeWord_encodeDataProcessing _ _ _ _ _ (op2 := .reg ..) h
  | addeq | subne | and | cmp | orr => exact decodeWord_encodeDataProcessing _ _ _ _ _ h
  | unknownDpImm => exact decodeWord_encodeDataProcessing _ _ _ _ _ (op2 := .imm _) h
  | unknownDpReg => exact decodeWord_encodeDataProcessing _ _ _ _ _ (op2 := .reg ..) h
  | sub cond s rn rd op2 =>
    simp only [Instr.wellFormed, Bool.and_eq_true, bne_iff_ne] at h
    obtain ⟨hop2, hcond⟩ := h
    rw [encode, decodeWord_encodeDataProcessing cond _ s rn rd hop2, decodeOpcode_sub, if_neg hcond]
  | add cond s rn rd op2 =>
    simp only [Instr.wellFormed, Bool.and_eq_true, bne_iff_ne] at h
    obtain ⟨hop2, hcond⟩ := h
    rw [encode, decodeWord_encodeDataProcessing cond _ s rn rd hop2, decodeOpcode_add, if_neg hcond]
  | mov cond s rn rd op2 =>
    simp only [Instr.wellFormed, Bool.and_eq_true] at h
    obtain ⟨hop2, hrn⟩ := h
    rw [encode, decodeWord_encodeDataProcessing cond _ s rn rd hop2]
    cases op2 with
    | imm => rfl
    | reg => rw [decodeOpcode_registerMove, if_neg (bne_iff_ne.1 hrn)]

end Sys2Proof
end

section
/-! PROOFS. Every instruction as one gated effect: what it does with its gate open, what that reports, and which of
registers and memory it writes (R15, R22, R80, R96). -/

namespace Sys2Proof

open Machine

/-! ## The effect of an instruction -/

/-- What an instruction does to the state when its gate is open, its report included (R100 to R119). -/
def Instr.effect (s : State) : Instr → State
  | .mul _ f rd rs rm =>
    (((s.setReg rd (s.reg rm * s.reg rs)).setFlagsIf f (s.flagsMul (s.reg rm * s.reg rs))).drawsAfterMul f).report
      .executed
  | .addeq f rn rd op2 | .add _ f rn rd op2 => s.addInto f rn rd op2
  | .subne f rn rd op2 | .sub _ f rn rd op2 => s.subInto f rn rd op2
  | .lsl _ f rd rm amount => s.shiftInto f rd rm .lsl amount
  | .lsr _ f rd rm amount => s.shiftInto f rd rm .lsr amount
  | .asr _ f rd rm amount => s.shiftInto f rd rm .asr amount
  | .ror _ f rd rm amount => s.shiftInto f rd rm .ror amount
  | .and _ f rn rd op2 => s.writeLogical f rd (s.reg rn &&& s.operand2 op2)
  | .orr _ f rn rd op2 => s.writeLogical f rd (s.reg rn ||| s.operand2 op2)
  | .mov _ f _ rd op2 => s.writeLogical f rd (s.operand2 op2)
  | .cmp _ rn _ op2 => (s.setFlagsIf true (flagsSub (s.reg rn) (s.operand2 op2))).report .executed
  | .ldr _ rn rd offset =>
    s.access (s.effectiveAddress rn offset) (s.setReg rd (s.mem.readWord (s.effectiveAddress rn offset)))
  | .str _ rn rd offset =>
    s.access (s.effectiveAddress rn offset) (s.setMem (s.mem.writeWord (s.effectiveAddress rn offset) (s.reg rd)))
  | .b .. | .bl .. => s.report .nopBranch
  | .unknown .. | .unknownDpImm .. | .unknownDpReg .. => s.report .nopUnknown

/-- Every instruction executes to its effect under the gate of its condition (R80, D2). -/
theorem exec_eq (i : Instr) (s : State) : exec i s = .next (gated i.cond s (i.effect s)) := by
  cases i <;> rfl

theorem exec_of_open {i : Instr} {s : State} (h : GateOpen i.cond s) : exec i s = .next (i.effect s) := by
  rw [exec_eq, gated_of_passes _ ((gatePasses_iff i.cond s).2 h)]

theorem exec_of_closed {i : Instr} {s : State} (h : ¬ GateOpen i.cond s) :
    exec i s = .next (s.report .skippedCond) := by
  rw [exec_eq, gated_of_fails _ (by rwa [← Bool.not_eq_true, gatePasses_iff])]

/-- A completed instruction had its effect, or failed its gate and only reported that (R82, R83). -/
theorem exec_cases {i : Instr} {s t : State} (h : exec i s = .next t) :
    (GateOpen i.cond s ∧ t = i.effect s) ∨ (¬ GateOpen i.cond s ∧ t = s.report .skippedCond) := by
  by_cases hopen : GateOpen i.cond s
  · exact .inl ⟨hopen, (Host.Outcome.next.inj ((exec_of_open hopen).symm.trans h)).symm⟩
  · exact .inr ⟨hopen, (Host.Outcome.next.inj ((exec_of_closed hopen).symm.trans h)).symm⟩

/-! ## Memory -/

/-- An access leaves what both its effect and a rejection leave (R34, R35). -/
theorem access_keeps {α : Type} (proj : State → α)
    (hreport : ∀ (t : State) (o : StepOutcome), proj (t.report o) = proj t) {s effect : State} (ea : Nat)
    (h : proj effect = proj s) : proj (s.access ea effect) = proj s := by
  rcases s.access_cases ea effect with ⟨-, heq⟩ | ⟨-, heq⟩ <;> rw [heq, hreport]
  exact h

/-- No effect but STR's changes memory (R22, R39). -/
theorem effect_mem_of_ne_str {i : Instr} (s : State) (h : i.kind ≠ .str) : (i.effect s).mem = s.mem := by
  cases i with
  | str => exact absurd rfl h
  | ldr => exact access_keeps State.mem State.report_mem _ (State.setReg_mem ..)
  | _ => simp [Instr.effect, State.addInto, State.subInto, State.shiftInto, State.writeLogical]

/-- Every effect leaves memory as it was or writes one word that lies inside it (R34, R37). -/
theorem effect_mem_cases (i : Instr) (s : State) :
    (i.effect s).mem = s.mem ∨
    ∃ ea v, ea + 4 ≤ s.params.memSize ∧ (i.effect s).mem = s.mem.writeWord ea v := by
  cases i with
  | str _ rn rd offset =>
    rcases s.access_cases (s.effectiveAddress rn offset)
      (s.setMem (s.mem.writeWord (s.effectiveAddress rn offset) (s.reg rd))) with ⟨hin, heq⟩ | ⟨-, heq⟩
    · exact .inr ⟨_, _, hin, by rw [Instr.effect, heq]; rfl⟩
    · exact .inl (by rw [Instr.effect, heq]; rfl)
  | _ => exact .inl (effect_mem_of_ne_str s (by simp [Instr.kind]))

theorem exec_mem_cases {i : Instr} {s t : State} (h : exec i s = .next t) :
    t.mem = s.mem ∨ ∃ ea v, ea + 4 ≤ s.params.memSize ∧ t.mem = s.mem.writeWord ea v := by
  rcases exec_cases h with ⟨-, rfl⟩ | ⟨-, rfl⟩
  · exact effect_mem_cases i s
  · exact .inl rfl

/-! ## The invariant -/

/-- An instruction keeps memory canonical and below its size (R22, R26). -/
theorem exec_keeps_memory {i : Instr} {s t : State} (h : exec i s = .next t) (hwf : s.mem.wf = true)
    (hbelow : s.mem.below s.params.memSize = true) :
    t.mem.wf = true ∧ t.mem.below s.params.memSize = true := by
  rcases exec_mem_cases h with hmem | ⟨ea, v, hin, hmem⟩ <;> rw [hmem]
  · exact ⟨hwf, hbelow⟩
  · exact ⟨Memory.wf_writeWord ea v hwf, Memory.below_writeWord v hbelow hin⟩

/-- A fetched word is within the stream (R17). -/
theorem pos_lt_of_fetchWord {s : State} {w : Word} (h : s.fetchWord = some w) : s.pos < s.stream.length / 4 := by
  obtain ⟨hpos, -⟩ := List.getElem?_eq_some_iff.1 h
  rwa [length_cutWords] at hpos

/-- Settles O48: the driver's side by the fetched word, memory by the one word an instruction may write. -/
theorem stepKeepsInvariant : Obligations.StepKeepsInvariant := by
  unfold Obligations.StepKeepsInvariant
  rintro s t ⟨hwf, hbelow, -, -⟩ hstep
  rcases step_cases s with ⟨-, hend⟩ | ⟨w, hfetch, hrun⟩
  · rw [hend] at hstep; cases hstep
  · have hexec := hrun.symm.trans hstep
    obtain ⟨hwf', hbelow'⟩ := exec_keeps_memory hexec hwf hbelow
    obtain ⟨t', hexec', hparams, hstream, hpos, hrecord⟩ := exec_sameDriver (decodeWord w) (s.present (decodeRecord w))
    obtain rfl : t' = t := Host.Outcome.next.inj (hexec'.symm.trans hexec)
    refine ⟨hwf', ?_, ?_, ?_⟩
    · rwa [hparams]
    · rw [hpos, hstream]
      exact pos_lt_of_fetchWord hfetch
    · rw [State.recordDecoded, hrecord]
      simp [decodeRecord]

/-! ## Registers -/

theorem Machine.WritesOnly.sameRegsBut {rd : RegNum} {s t : State} (h : WritesOnly rd s t) : SameRegsBut rd s t := by
  obtain ⟨hregs, -⟩ := h
  exact hregs

/-- The kinds that write no register, CMP among them whatever its `rd` (R105). -/
theorem effect_regs_of_noRegisterKind {i : Instr} (s : State)
    (h : i.kind ∈ [.cmp, .str, .b, .bl, .unknown, .unknownDpImm, .unknownDpReg]) : (i.effect s).regs = s.regs := by
  cases i with
  | cmp => exact State.setFlagsIf_regs ..
  | str => exact access_keeps State.regs State.report_regs _ rfl
  | b | bl | unknown | unknownDpImm | unknownDpReg => rfl
  | _ => simp [Instr.kind] at h

/-- No effect writes a register but its `rd` (R15). -/
theorem effect_reg_of_ne_rd {i : Instr} (s : State) {r : RegNum} (h : i.rd? ≠ some r) :
    (i.effect s).reg r = s.reg r := by
  have hne {rd : RegNum} (hrd : i.rd? = some rd) : r ≠ rd := fun heq => h (heq ▸ hrd)
  cases i with
  | mul _ _ rd => simp [Instr.effect, State.reg_setReg_of_ne _ _ (hne rfl)]
  | addeq | add => exact (writesOnly_addInto ..).sameRegsBut r (hne rfl)
  | subne | sub => exact (writesOnly_subInto ..).sameRegsBut r (hne rfl)
  | lsl | lsr | asr | ror => exact (writesOnly_shiftInto ..).sameRegsBut r (hne rfl)
  | and | orr | mov => exact (writesOnly_writeLogical ..).sameRegsBut r (hne rfl)
  | ldr =>
    exact access_keeps (State.reg · r) (fun t o => t.reg_report o r) _ (State.reg_setReg_of_ne _ _ (hne rfl))
  | cmp | str | b | bl | unknown | unknownDpImm | unknownDpReg =>
    exact State.reg_congr (effect_regs_of_noRegisterKind s (by simp [Instr.kind])) r

/-- Settles O38: the effect writes `rd` at most, and a failed gate writes nothing. -/
theorem registersWrittenOnlyByName : Obligations.RegistersWrittenOnlyByName := by
  unfold Obligations.RegistersWrittenOnlyByName
  intro i s t h
  rcases exec_cases h with ⟨-, rfl⟩ | ⟨-, rfl⟩
  · exact ⟨fun _ hr => effect_reg_of_ne_rd s hr, fun hkind => State.reg_congr (effect_regs_of_noRegisterKind s hkind)⟩
  · exact ⟨fun _ _ => rfl, fun _ _ => rfl⟩

/-! ## Outcomes -/

/-- What an instruction reports when its gate is open (R96). -/
def Instr.openOutcome (s : State) : Instr → StepOutcome
  | .ldr _ rn _ offset | .str _ rn _ offset =>
    if s.effectiveAddress rn offset + 4 ≤ s.params.memSize then .executed else .rejectedOob
  | .b .. | .bl .. => .nopBranch
  | .unknown .. | .unknownDpImm .. | .unknownDpReg .. => .nopUnknown
  | .mul .. | .addeq .. | .subne .. | .lsl .. | .lsr .. | .asr .. | .ror .. | .and .. | .sub .. | .add .. | .cmp ..
  | .orr .. | .mov .. => .executed

theorem outcome_access (s : State) (ea : Nat) (effect : State) :
    (s.access ea effect).outcome = some (if ea + 4 ≤ s.params.memSize then .executed else .rejectedOob) := by
  rcases s.access_cases ea effect with ⟨hin, heq⟩ | ⟨hout, heq⟩
  · rw [heq, if_pos hin]; rfl
  · rw [heq, if_neg hout]; rfl

theorem effect_outcome (i : Instr) (s : State) : (i.effect s).outcome = some (i.openOutcome s) := by
  cases i with
  | ldr | str => exact outcome_access ..
  | _ => rfl

theorem openOutcome_ne_skippedCond (i : Instr) (s : State) : i.openOutcome s ≠ .skippedCond := by
  cases i with
  | ldr | str => simp only [Instr.openOutcome]; split <;> decide
  | _ => simp [Instr.openOutcome]

/-- Settles O36: a failed gate only reports, and an open one reports its instruction's own outcome. -/
theorem failedGateHasNoEffect : Obligations.FailedGateHasNoEffect := by
  unfold Obligations.FailedGateHasNoEffect
  intro i s
  by_cases hopen : GateOpen i.cond s
  · refine ⟨_, exec_of_open hopen, fun hclosed => absurd hopen hclosed, fun _ => ?_⟩
    rw [effect_outcome, Ne, Option.some.injEq]
    exact openOutcome_ne_skippedCond i s
  · exact ⟨_, exec_of_closed hopen, fun _ => ⟨noEffect_report s _, rfl⟩, fun h => absurd h hopen⟩

/-- Settles O37: the gate first, then the outcome by kind, and by address for LDR and STR. -/
theorem outcomeOfEveryInstruction : Obligations.OutcomeOfEveryInstruction := by
  unfold Obligations.OutcomeOfEveryInstruction
  intro i s
  by_cases hopen : GateOpen i.cond s
  · refine ⟨_, exec_of_open hopen, fun hclosed => absurd hopen hclosed, fun _ => ?_⟩
    rw [effect_outcome]
    cases i with
    | ldr | str =>
      refine ⟨by simp [Instr.kind], by simp [Instr.kind], ?_, by simp [Instr.kind]⟩
      rintro _ _ _ _ (heq | heq) <;> cases heq
      exact ⟨fun hin => congrArg some (if_pos hin), fun hout => congrArg some (if_neg hout)⟩
    | _ => simp [Instr.kind, Instr.openOutcome]
  · exact ⟨_, exec_of_closed hopen, fun _ => rfl, fun h => absurd h hopen⟩

end Sys2Proof
end

section
/-! PROOFS. What each kind does with its gate open (R100 to R119): the flag helpers read as numbers, then one theorem
per group of kinds. -/

namespace Sys2Proof.Machine

/-! ## The flag helpers as numbers -/

/-- N of a result is bit 31 of its number (R92, D8). -/
theorem msb_eq_bit31 (v : Word) : v.msb = bit31 v.toNat :=
  BitVec.msb_eq_decide v

theorem eq_zero_eq_decide (v : Word) : (v == 0#32) = decide (v.toNat = 0) := by
  rw [Bool.eq_iff_iff, beq_iff_eq, decide_eq_true_eq, ← BitVec.toNat_inj]
  rfl

/-- The spec's difference of numbers is the words' (R11). -/
theorem subMod_toNat (a b : Word) : subMod a.toNat b.toNat = (a - b).toNat := by
  have ha := a.isLt
  have hb := b.isLt
  rw [subMod, BitVec.toNat_sub]
  omega

theorem flagsNZFrom_of_flags {s t : State} {res : Word} (h : t.flags = flagsNZ s.flags res) :
    FlagsNZFrom res.toNat s t := by
  rw [FlagsNZFrom, h]
  exact ⟨msb_eq_bit31 res, eq_zero_eq_decide res, rfl, rfl⟩

theorem flagsAddFrom_of_flags {t : State} {a b : Word} (h : t.flags = flagsAdd a b) :
    FlagsAddFrom a.toNat b.toNat t := by
  rw [FlagsAddFrom, h, ← BitVec.toNat_add]
  refine ⟨msb_eq_bit31 _, eq_zero_eq_decide _, rfl, ?_⟩
  simp only [flagsAdd, ← msb_eq_bit31, Bool.and_eq_true, beq_iff_eq, bne_iff_ne]

theorem flagsSubFrom_of_flags {t : State} {a b : Word} (h : t.flags = flagsSub a b) :
    FlagsSubFrom a.toNat b.toNat t := by
  rw [FlagsSubFrom, h, subMod_toNat]
  refine ⟨msb_eq_bit31 _, eq_zero_eq_decide _, rfl, ?_⟩
  simp only [flagsSub, ← msb_eq_bit31, Bool.and_eq_true, bne_iff_ne]

/-! ## Flags on request -/

/-- A write of N and Z on request: kept without, the result's with (R92, R95). -/
theorem writeLogical_flags_cases (s : State) (f : Bool) (rd : RegNum) (res : Word) :
    (f = false → (s.writeLogical f rd res).flags = s.flags) ∧
    (f = true → FlagsNZFrom res.toNat s (s.writeLogical f rd res)) := by
  rw [State.flags_writeLogical]
  refine ⟨fun hf => by simp [hf], fun hf => flagsNZFrom_of_flags ?_⟩
  rw [State.flags_writeLogical, if_pos hf]

theorem addInto_flags_cases (s : State) (f : Bool) (rn rd : RegNum) (op2 : Operand2) :
    (f = false → (s.addInto f rn rd op2).flags = s.flags) ∧
    (f = true → FlagsAddFrom (s.reg rn).toNat (s.operand2 op2).toNat (s.addInto f rn rd op2)) := by
  refine ⟨fun hf => by simp [hf], fun hf => flagsAddFrom_of_flags ?_⟩
  rw [State.flags_addInto, if_pos hf]

theorem subInto_flags_cases (s : State) (f : Bool) (rn rd : RegNum) (op2 : Operand2) :
    (f = false → (s.subInto f rn rd op2).flags = s.flags) ∧
    (f = true → FlagsSubFrom (s.reg rn).toNat (s.operand2 op2).toNat (s.subInto f rn rd op2)) := by
  refine ⟨fun hf => by simp [hf], fun hf => flagsSubFrom_of_flags ?_⟩
  rw [State.flags_subInto, if_pos hf]

/-! ## Data processing -/

/-- Settles O24: the write of operand 2 with N and Z on request. -/
theorem movEffect : Obligations.MovEffect := by
  unfold Obligations.MovEffect
  intro cond f rn rd op2 s hopen
  exact ⟨_, exec_of_open hopen, s.reg_writeLogical_same .., writesOnly_writeLogical .., writeLogical_flags_cases ..⟩

/-- The condition EQ opens the gate on Z = 1 (R82). -/
theorem gateOpen_eq {s : State} (h : s.flags.z = true) : GateOpen Cond.eq s :=
  ⟨fun _ => h, fun habs => absurd habs (by decide)⟩

theorem gateOpen_ne {s : State} (h : s.flags.z = false) : GateOpen Cond.ne s :=
  ⟨fun habs => absurd habs (by decide), fun _ => h⟩

/-- Settles O25: ADD and ADDEQ have one effect, under their own gates. -/
theorem addEffect : Obligations.AddEffect := by
  unfold Obligations.AddEffect
  have heffect (f : Bool) (rn rd : RegNum) (op2 : Operand2) (s : State) :
      ((s.addInto f rn rd op2).reg rd).toNat = ((s.reg rn).toNat + (s.operand2 op2).toNat) % 2 ^ 32 := by
    rw [State.reg_addInto_same, BitVec.toNat_add]
  refine ⟨fun cond f rn rd op2 s hopen => ?_, fun f rn rd op2 s hz => ?_⟩
  · exact ⟨_, exec_of_open hopen, heffect .., writesOnly_addInto .., addInto_flags_cases ..⟩
  · exact ⟨_, exec_of_open (i := .addeq f rn rd op2) (gateOpen_eq hz), heffect .., writesOnly_addInto ..,
      addInto_flags_cases ..⟩

/-- Settles O26: SUB and SUBNE have one effect, under their own gates. -/
theorem subEffect : Obligations.SubEffect := by
  unfold Obligations.SubEffect
  have heffect (f : Bool) (rn rd : RegNum) (op2 : Operand2) (s : State) :
      ((s.subInto f rn rd op2).reg rd).toNat = subMod (s.reg rn).toNat (s.operand2 op2).toNat := by
    rw [State.reg_subInto_same, subMod_toNat]
  refine ⟨fun cond f rn rd op2 s hopen => ?_, fun f rn rd op2 s hz => ?_⟩
  · exact ⟨_, exec_of_open hopen, heffect .., writesOnly_subInto .., subInto_flags_cases ..⟩
  · exact ⟨_, exec_of_open (i := .subne f rn rd op2) (gateOpen_ne hz), heffect .., writesOnly_subInto ..,
      subInto_flags_cases ..⟩

/-- Settles O27: the flags of the subtraction, and no other field. -/
theorem cmpEffect : Obligations.CmpEffect := by
  unfold Obligations.CmpEffect
  intro cond rn rd op2 s hopen
  exact ⟨_, exec_of_open hopen, flagsSubFrom_of_flags rfl, fun _ => rfl, fun _ => rfl, ⟨rfl, rfl, rfl, rfl⟩, rfl, rfl⟩

/-- Settles O28: the written register's bits, and the flags of the value it holds. -/
theorem logicalEffect : Obligations.LogicalEffect := by
  unfold Obligations.LogicalEffect
  intro cond f rn rd op2 s hopen
  refine ⟨⟨s.writeLogical f rd (s.reg rn &&& s.operand2 op2), exec_of_open hopen, ?_⟩,
    ⟨s.writeLogical f rd (s.reg rn ||| s.operand2 op2), exec_of_open hopen, ?_⟩⟩ <;> rw [State.reg_writeLogical_same]
  · exact ⟨fun k => BitVec.getLsbD_and, writesOnly_writeLogical .., writeLogical_flags_cases ..⟩
  · exact ⟨fun k => BitVec.getLsbD_or, writesOnly_writeLogical .., writeLogical_flags_cases ..⟩

/-! ## Shifts and multiply -/

/-- What the four shift kinds share: the flags are those of the value that `rd` holds after (R92, R108 to R111). -/
theorem shiftInto_flags_cases (s : State) (f : Bool) (rd rm : RegNum) (ty : ShiftType) (amount : ShiftAmount) :
    (f = false → (s.shiftInto f rd rm ty amount).flags = s.flags) ∧
    (f = true →
      FlagsNZFrom ((s.shiftInto f rd rm ty amount).reg rd).toNat s (s.shiftInto f rd rm ty amount)) := by
  rw [State.shiftInto, State.reg_writeLogical_same]
  exact writeLogical_flags_cases ..

/-- Settles O29: each kind writes the shift named after it, as arithmetic on the register's number. -/
theorem shiftKindsEffect : Obligations.ShiftKindsEffect := by
  unfold Obligations.ShiftKindsEffect
  intro cond f rd rm amount s hopen
  refine ⟨⟨_, exec_of_open hopen, ?_, writesOnly_shiftInto .., shiftInto_flags_cases ..⟩,
    ⟨_, exec_of_open hopen, ?_, writesOnly_shiftInto .., shiftInto_flags_cases ..⟩,
    ⟨_, exec_of_open hopen, ?_, writesOnly_shiftInto .., shiftInto_flags_cases ..⟩,
    ⟨_, exec_of_open hopen, ?_, writesOnly_shiftInto .., shiftInto_flags_cases ..⟩⟩ <;>
    rw [Instr.effect, State.reg_shiftInto_same]
  · exact toNat_shift_lsl ..
  · exact toNat_shift_lsr ..
  · exact toNat_shift_asr ..
  · exact toNat_shift_ror ..

/-- Settles O30: the product's low 32 bits; its flags and the free bits by MULS_CV. -/
theorem mulEffect : Obligations.MulEffect := by
  unfold Obligations.MulEffect
  intro cond f rd rs rm s hopen
  obtain ⟨hn, hz, hcv⟩ := s.flagsMul_cases (s.reg rm * s.reg rs)
  refine ⟨_, exec_of_open hopen, ?_⟩
  rw [Instr.effect, ← BitVec.toNat_mul]
  refine ⟨by simp, fun r hr => ?_, fun a => by simp, by simp [SameDriver], rfl, ?_, ?_, ?_⟩
  · simp [State.reg_setReg_of_ne _ _ hr]
  · rintro rfl; exact ⟨rfl, rfl⟩
  · rintro rfl
    simp [hn, hz, msb_eq_bit31, eq_zero_eq_decide]
  · intro hpreserve
    obtain ⟨hc, hv⟩ := hcv hpreserve
    cases f <;> simp [hc, hv, hpreserve]

/-! ## Load and store -/

theorem access_of_accepted {s : State} {ea : Nat} (effect : State) (h : ea + 4 ≤ s.params.memSize) :
    s.access ea effect = effect.report .executed :=
  if_pos ((s.accepts_iff ea).2 h)

theorem access_of_rejected {s : State} {ea : Nat} (effect : State) (h : ¬ ea + 4 ≤ s.params.memSize) :
    s.access ea effect = s.report .rejectedOob :=
  if_neg (mt (s.accepts_iff ea).1 h)

/-- Settles O31: the accepted access writes the word read from memory to `rd`. -/
theorem ldrEffect : Obligations.LdrEffect := by
  unfold Obligations.LdrEffect
  intro cond rn rd offset s hopen ea hin
  refine ⟨_, exec_of_open hopen, ?_⟩
  rw [Instr.effect, access_of_accepted _ hin]
  refine ⟨?_, writesOnly_setReg s rd _ false s.flags, rfl⟩
  rw [State.reg_report, State.reg_setReg_same]
  exact memReadLittleEndian s.mem ea

/-- Settles O32: the accepted access replaces memory by the written one, and no other field. -/
theorem strEffect : Obligations.StrEffect := by
  unfold Obligations.StrEffect
  intro cond rn rd offset s hopen hwf ea hin
  refine ⟨_, exec_of_open hopen, ?_⟩
  rw [Instr.effect, access_of_accepted _ hin]
  obtain ⟨h0, h1, h2, h3, hrest⟩ := memWriteLittleEndian s.mem ea (s.reg rd) hwf
  exact ⟨h0, h1, h2, h3, hrest, fun _ => rfl, rfl, ⟨rfl, rfl, rfl, rfl⟩, rfl, rfl⟩

/-- Settles O33: a rejected access is a mere report. -/
theorem rejectedAccessHasNoEffect : Obligations.RejectedAccessHasNoEffect := by
  unfold Obligations.RejectedAccessHasNoEffect
  intro cond rn rd offset s hopen hout
  refine ⟨⟨_, exec_of_open hopen, ?_⟩, ⟨_, exec_of_open hopen, ?_⟩⟩ <;>
    rw [Instr.effect, access_of_rejected _ hout]
  · exact ⟨noEffect_report s _, rfl⟩
  · exact ⟨noEffect_report s _, rfl⟩

/-- Reading back a written word (R36, R37). -/
theorem Memory.readWord_writeWord {m : Memory} (ea : Nat) (v : Word) (h : m.wf = true) :
    (m.writeWord ea v).readWord ea = v := by
  rw [Memory.readWord, wordOfLittleEndian_eq, Memory.read_writeWord ea v h (k := 1) (by decide),
    Memory.read_writeWord ea v h (k := 2) (by decide), Memory.read_writeWord ea v h (k := 3) (by decide)]
  exact (congrArg _ (Memory.read_writeWord ea v h (k := 0) (by decide))).trans (wordOfBigEndian_bytes v)

/-- Settles O43: the store leaves registers, flags and parameters, so the load passes its gate and finds the address
accepted, and it reads the word back. -/
theorem loadAfterStoreReturnsIt : Obligations.LoadAfterStoreReturnsIt := by
  unfold Obligations.LoadAfterStoreReturnsIt
  intro cond rn rd rd' offset s t hopen hwf hin hstr
  have ht : t = (s.setMem (s.mem.writeWord (s.effectiveAddress rn offset) (s.reg rd))).report .executed := by
    rw [exec_of_open (i := .str cond rn rd offset) hopen, Instr.effect, access_of_accepted _ hin] at hstr
    exact (Host.Outcome.next.inj hstr).symm
  have hea : t.effectiveAddress rn offset = s.effectiveAddress rn offset := by rw [ht]; rfl
  have hopen' : GateOpen cond t := by rw [ht]; exact hopen
  have hin' : t.effectiveAddress rn offset + 4 ≤ t.params.memSize := by rw [hea, ht]; exact hin
  refine ⟨_, exec_of_open (i := .ldr cond rn rd' offset) hopen', ?_⟩
  rw [Instr.effect, access_of_accepted _ hin', State.reg_report, State.reg_setReg_same, hea, ht]
  exact Memory.readWord_writeWord _ _ hwf

/-- Settles O23: the sum is reduced under ADDR_WRAP alone, and the reduction is idle below 2^32. -/
theorem effectiveAddressValue : Obligations.EffectiveAddressValue := by
  unfold Obligations.EffectiveAddressValue
  intro s rn offset sum
  refine ⟨fun hwrap => if_pos hwrap, fun hwrap => if_neg (by simp [hwrap]), fun hsmall => ?_⟩
  rw [State.effectiveAddress, Nat.mod_eq_of_lt hsmall]
  exact ite_self _

/-! ## Kinds without effect -/

/-- Settles O34: both branches are a mere report. -/
theorem branchesAreInert : Obligations.BranchesAreInert := by
  unfold Obligations.BranchesAreInert
  intro cond offset s hopen
  exact ⟨⟨_, exec_of_open hopen, noEffect_report s _, rfl⟩, ⟨_, exec_of_open hopen, noEffect_report s _, rfl⟩⟩

/-- Settles O35: the three kinds are a mere report. -/
theorem unknownKindsAreInert : Obligations.UnknownKindsAreInert := by
  unfold Obligations.UnknownKindsAreInert
  intro cond f rn rd rm value ty amount s hopen
  exact ⟨⟨_, exec_of_open hopen, noEffect_report s _, rfl⟩, ⟨_, exec_of_open hopen, noEffect_report s _, rfl⟩,
    ⟨_, exec_of_open hopen, noEffect_report s _, rfl⟩⟩

end Sys2Proof.Machine
end

section
/-! PROOFS. What an instruction does not depend on: memory but in LDR and STR (R39), the flags N, C and V (R19), the
output interfaces (R24, R96). -/

namespace Sys2Proof

open Machine

/-- The counter of free bits is the one field that `drawsAfterMul` writes (log entry 9). -/
theorem Machine.State.drawsAfterMul_eq (s : State) (f : Bool) :
    s.drawsAfterMul f = { s with draws := if f = true ∧ s.params.mulsCV = .any then s.draws + 2 else s.draws } := by
  unfold State.drawsAfterMul
  split <;> simp_all

/-! ## Memory -/

/-- A kind that makes no access has the same effect whatever memory holds (R39). -/
theorem effect_setMem {i : Instr} (s : State) (m : Memory) (hstr : i.kind ≠ .str) (hldr : i.kind ≠ .ldr) :
    i.effect (s.setMem m) = (i.effect s).setMem m := by
  cases i with
  | str => exact absurd rfl hstr
  | ldr => exact absurd rfl hldr
  | cmp | b | bl | unknown | unknownDpImm | unknownDpReg => rfl
  | mul _ f => cases f <;> simp only [Instr.effect, State.drawsAfterMul_eq] <;> rfl
  | addeq f | subne f | lsl _ f | lsr _ f | asr _ f | ror _ f | and _ f | sub _ f | add _ f | orr _ f | mov _ f =>
    cases f <;> rfl

/-- Settles O40: only STR's effect changes memory, and with the gate, which reads flag Z, the other effects do the same
on every memory. -/
theorem memoryReachedOnlyByLoadStore : Obligations.MemoryReachedOnlyByLoadStore := by
  unfold Obligations.MemoryReachedOnlyByLoadStore
  intro i s t h
  rcases exec_cases h with ⟨hopen, rfl⟩ | ⟨hclosed, rfl⟩
  · refine ⟨effect_mem_of_ne_str s, fun hstr hldr m => ?_⟩
    rw [← effect_setMem s m hstr hldr]
    exact exec_of_open hopen
  · exact ⟨fun _ => rfl, fun _ _ m => exec_of_closed hclosed⟩

/-! ## The flags N, C and V -/

/-- The state with other flags N, C and V. -/
def Machine.State.withNCV (s : State) (n c v : Bool) : State :=
  { s with flags := { s.flags with n := n, c := c, v := v } }

/-- States that differ in N, C and V alone accept the same addresses (R34). -/
theorem access_withNCV {s effect effect' : State} {n c v : Bool} (ea : Nat) (h : effect' = effect.withNCV n c v) :
    (s.withNCV n c v).access ea effect' = (s.access ea effect).withNCV n c v := by
  by_cases hin : ea + 4 ≤ s.params.memSize
  · rw [access_of_accepted (s := s.withNCV n c v) _ hin, access_of_accepted _ hin, h]
    rfl
  · rw [access_of_rejected (s := s.withNCV n c v) _ hin, access_of_rejected _ hin]
    rfl

/-- From states that differ in N, C and V an instruction's effects differ in N, C and V (R19). -/
theorem effect_withNCV (i : Instr) (s : State) (n c v : Bool) :
    ∃ n' c' v', i.effect (s.withNCV n c v) = (i.effect s).withNCV n' c' v' := by
  cases i with
  | mul _ f =>
    simp only [Instr.effect, State.drawsAfterMul_eq]
    cases f with
    | false => exact ⟨n, c, v, rfl⟩
    | true =>
      have hparams : (s.withNCV n c v).params = s.params := rfl
      cases hcv : s.params.mulsCV <;> simp only [State.flagsMul, hparams, hcv] <;> exact ⟨_, _, _, rfl⟩
  | addeq f | subne f | lsl _ f | lsr _ f | asr _ f | ror _ f | and _ f | sub _ f | add _ f | orr _ f | mov _ f =>
    cases f <;> exact ⟨_, _, _, rfl⟩
  | ldr | str => exact ⟨n, c, v, access_withNCV _ rfl⟩
  | cmp | b | bl | unknown | unknownDpImm | unknownDpReg => exact ⟨_, _, _, rfl⟩

theorem exec_withNCV (i : Instr) (s : State) (n c v : Bool) :
    ∃ t n' c' v', exec i s = .next t ∧ exec i (s.withNCV n c v) = .next (t.withNCV n' c' v') := by
  by_cases hopen : GateOpen i.cond s
  · obtain ⟨n', c', v', heffect⟩ := effect_withNCV i s n c v
    exact ⟨_, n', c', v', exec_of_open hopen, heffect ▸ exec_of_open hopen⟩
  · exact ⟨_, n, c, v, exec_of_closed hopen, exec_of_closed hopen⟩

theorem step_of_fetchWord {s : State} {w : Word} (h : s.fetchWord = some w) :
    step s = exec (decodeWord w) (s.present (decodeRecord w)) := by
  rw [step, h]
  rfl

/-- Settles O41: both states fetch the same word, and every field but the three flags comes out the same. -/
theorem onlyFlagZIsRead : Obligations.OnlyFlagZIsRead := by
  unfold Obligations.OnlyFlagZIsRead
  intro s n c v
  cases hfetch : s.fetchWord with
  | none => exact .inl ⟨step_of_fetchWord_none hfetch, step_of_fetchWord_none (s := s.withNCV n c v) hfetch⟩
  | some w =>
    obtain ⟨t, n', c', v', ht, ht'⟩ := exec_withNCV (decodeWord w) (s.present (decodeRecord w)) n c v
    exact .inr ⟨t, t.withNCV n' c' v', (step_of_fetchWord hfetch).trans ht,
      (step_of_fetchWord (s := s.withNCV n c v) hfetch).trans ht', rfl, rfl, rfl, rfl, rfl, rfl⟩

/-! ## The outputs -/

/-- Every effect ends in a report, so the outcome before it is lost (R96). -/
theorem effect_withOutcome (i : Instr) (s : State) (o : Option StepOutcome) :
    i.effect { s with outcome := o } = i.effect s := by
  cases i with
  | mul _ f => cases f <;> simp only [Instr.effect, State.drawsAfterMul_eq] <;> rfl
  | addeq f | subne f | lsl _ f | lsr _ f | asr _ f | ror _ f | and _ f | sub _ f | add _ f | orr _ f | mov _ f =>
    cases f <;> rfl
  | cmp | ldr | str | b | bl | unknown | unknownDpImm | unknownDpReg => rfl

theorem exec_withOutcome (i : Instr) (s : State) (o : Option StepOutcome) :
    exec i { s with outcome := o } = exec i s := by
  rw [exec_eq, exec_eq, effect_withOutcome]
  rfl

/-- Settles O42: presenting the word overwrites the record, and executing it overwrites the outcome. -/
theorem outputsAreNeverRead : Obligations.OutputsAreNeverRead := by
  unfold Obligations.OutputsAreNeverRead
  intro s r o
  cases hfetch : s.fetchWord with
  | none =>
    rw [step_of_fetchWord_none hfetch, step_of_fetchWord_none (s := { s with record := r, outcome := o }) hfetch]
  | some w =>
    rw [step_of_fetchWord hfetch, step_of_fetchWord (s := { s with record := r, outcome := o }) hfetch]
    exact exec_withOutcome (decodeWord w) (s.present (decodeRecord w)) o

end Sys2Proof
end

section
/-! PROOFS. C and V as overflow (R93, R94); the created state (R27, R137); steps and runs (R81, R141, R147). -/

namespace Sys2Proof.Machine

/-! ## C and V -/

/-- V of an addition: the operands share a sign that the 32-bit sum has not (R93). -/
theorem flagsAdd_v_iff (a b : Word) :
    (flagsAdd a b).v = true ↔ ¬ (-2 ^ 31 ≤ a.toInt + b.toInt ∧ a.toInt + b.toInt < 2 ^ 31) := by
  have ha := a.isLt
  have hb := b.isLt
  simp only [flagsAdd, msb_eq_bit31, bit31, BitVec.toNat_add, BitVec.toInt_eq_toNat_cond, Bool.and_eq_true, beq_iff_eq,
    bne_iff_ne, ne_eq, decide_eq_decide]
  split <;> split <;> omega

theorem flagsAdd_c_iff (a b : Word) : (flagsAdd a b).c = true ↔ (a + b).toNat ≠ a.toNat + b.toNat := by
  have ha := a.isLt
  have hb := b.isLt
  rw [flagsAdd, decide_eq_true_eq, BitVec.toNat_add]
  omega

/-- V of a subtraction: the operands' signs differ and the 32-bit difference has not the first one's (R94). -/
theorem flagsSub_v_iff (a b : Word) :
    (flagsSub a b).v = true ↔ ¬ (-2 ^ 31 ≤ a.toInt - b.toInt ∧ a.toInt - b.toInt < 2 ^ 31) := by
  have ha := a.isLt
  have hb := b.isLt
  simp only [flagsSub, msb_eq_bit31, bit31, BitVec.toNat_sub, BitVec.toInt_eq_toNat_cond, Bool.and_eq_true,
    bne_iff_ne, ne_eq, decide_eq_decide]
  split <;> split <;> omega

theorem flagsSub_c_iff (a b : Word) :
    (flagsSub a b).c = true ↔ ((a - b).toNat : Int) = (a.toNat : Int) - (b.toNat : Int) := by
  have ha := a.isLt
  have hb := b.isLt
  rw [flagsSub, decide_eq_true_eq, BitVec.toNat_sub]
  omega

/-- Settles O44: one equivalence per flag and operation. -/
theorem overflowFlagsMeanOverflow : Obligations.OverflowFlagsMeanOverflow := by
  unfold Obligations.OverflowFlagsMeanOverflow
  exact fun a b => ⟨flagsAdd_v_iff a b, flagsAdd_c_iff a b, flagsSub_v_iff a b, flagsSub_c_iff a b⟩

/-! ## The created state -/

/-- Settles O45: every clause is a field of `State.reset`. -/
theorem resetValues : Obligations.ResetValues := by
  unfold Obligations.ResetValues
  refine ⟨fun r => ?_, rfl, fun _ => rfl, rfl, rfl, rfl, rfl, rfl⟩
  exact Vector.getElem_replicate r.isLt

/-- Settles O47: no memory cell, no record, position 0. -/
theorem resetMeetsInvariant : Obligations.ResetMeetsInvariant := by
  unfold Obligations.ResetMeetsInvariant
  exact ⟨State.reset_mem_wf, rfl, Nat.zero_le _, rfl⟩

/-- Byte `k` of the given bytes stands `k` above the first address; a byte not given is 0 (D10). -/
theorem Memory.read_ofBytesFrom (bytes : List Byte) (a k : Nat) :
    (Memory.ofBytesFrom a bytes).read (a + k) = bytes.getD k 0#8 := by
  induction bytes generalizing a k with
  | nil => rfl
  | cons b rest ih =>
    have hlater (j : Nat) : (Memory.ofBytesFrom (a + 1) rest).read (a + (j + 1)) = rest.getD j 0#8 := by
      rw [← ih (a + 1) j, Nat.add_comm j 1, Nat.add_assoc]
    have hfirst : (Memory.ofBytesFrom (a + 1) rest).read a = 0#8 :=
      Memory.read_of_le (hi := a) (Memory.wfAbove_ofBytesFrom rest (a + 1) (some a) (by simp)) (Nat.le_refl a)
    rw [Memory.ofBytesFrom]
    cases k with
    | zero => split <;> simp_all [Memory.read]
    | succ j =>
      split
      · exact hlater j
      · rw [Memory.read, if_neg (by omega)]
        exact hlater j

/-- The given bytes stand below the address after the last. -/
theorem Memory.below_ofBytesFrom (bytes : List Byte) {a size : Nat} (h : a + bytes.length ≤ size) :
    (Memory.ofBytesFrom a bytes).below size = true := by
  induction bytes generalizing a with
  | nil => rfl
  | cons b rest ih =>
    simp only [List.length_cons] at h
    have hrest := ih (a := a + 1) (by omega)
    rw [Memory.ofBytesFrom]
    split
    · exact hrest
    · rw [Memory.below, List.all_cons, Bool.and_eq_true]
      exact ⟨decide_eq_true (by omega), hrest⟩

/-- Settles O46: INIT_MEM by address, the other parameters field by field, and the invariant of the memory made of the
bytes that fit. -/
theorem createdStateIsItsParameters : Obligations.CreatedStateIsItsParameters := by
  unfold Obligations.CreatedStateIsItsParameters
  intro params regs flags mem stream s
  refine ⟨fun _ => rfl, rfl, fun a ha => ?_, rfl, rfl, rfl, ?_, ?_, Nat.zero_le _, rfl⟩
  · have hread := Memory.read_ofBytesFrom (mem.take params.memSize) 0 a
    rw [Nat.zero_add] at hread
    rw [show s.mem = Memory.ofBytesFrom 0 (mem.take params.memSize) from rfl, hread, List.getD_eq_getElem?_getD,
      List.getD_eq_getElem?_getD, List.getElem?_take_of_lt ha]
  · exact Memory.wfAbove_ofBytesFrom _ 0 none rfl
  · exact Memory.below_ofBytesFrom _ (by rw [Nat.zero_add]; exact List.length_take_le ..)

/-! ## A step -/

/-- Settles O49: the first word cut from the bytes at the position is the one fetched. -/
theorem stepRunsDecodedInstruction : Obligations.StepRunsDecodedInstruction := by
  unfold Obligations.StepRunsDecodedInstruction
  rintro s b0 b1 b2 b3 rest i hbytes rfl
  have hfetch : s.fetchWord = some (wordOfBigEndian b0 b1 b2 b3) := by
    rw [s.fetchWord_eq, hbytes]
    rfl
  exact step_of_fetchWord hfetch

/-- The run is over exactly where no word is fetched (R141). -/
theorem fetchWord_eq_none_iff (s : State) : s.fetchWord = none ↔ s.runOver := by
  rw [State.fetchWord, List.getElem?_eq_none_iff, length_cutWords]

/-- Settles O51: a fetched word completes, and only its absence stops. -/
theorem stepStopsExactlyAtRunEnd : Obligations.StepStopsExactlyAtRunEnd := by
  unfold Obligations.StepStopsExactlyAtRunEnd
  intro s
  rw [← fetchWord_eq_none_iff]
  cases hfetch : s.fetchWord with
  | none => exact ⟨⟨fun _ => rfl, fun _ => step_of_fetchWord_none hfetch⟩, fun h => absurd rfl h⟩
  | some w =>
    obtain ⟨t, hstep, -⟩ := step_of_fetchWord_some hfetch
    rw [hstep]
    exact ⟨⟨nofun, nofun⟩, fun _ => ⟨t, rfl⟩⟩

/-! ## A run -/

theorem exec_outcome_isSome {i : Instr} {s t : State} (h : exec i s = .next t) : t.outcome.isSome = true := by
  rcases exec_cases h with ⟨-, rfl⟩ | ⟨-, rfl⟩
  · rw [effect_outcome]; rfl
  · rfl

/-- A submitted word completes, with an outcome, and moves the position by one word (R17, R96). -/
theorem stepWord_completes (w : Word) (s : State) : ∃ t, stepWord w s = .next t ∧ t.outcome.isSome = true ∧
    t.pos = s.pos + 1 ∧ t.stream = s.stream := by
  obtain ⟨t, hstep, -, hstream, hpos, -⟩ := exec_sameDriver (decodeRecord w).instr (s.present (decodeRecord w))
  exact ⟨t, hstep, exec_outcome_isSome hstep, hpos, hstream⟩

/-- With a word left, the words left are that word and the words after it. -/
theorem drop_cutWords_of_fetchWord {s : State} {w : Word} (h : s.fetchWord = some w) :
    (cutWords s.stream).drop s.pos = w :: (cutWords s.stream).drop (s.pos + 1) := by
  obtain ⟨hlt, hget⟩ := List.getElem?_eq_some_iff.1 h
  rw [List.drop_eq_getElem_cons hlt, hget]

theorem exists_fetchWord_of_lt {s : State} (h : s.pos < s.stream.length / 4) : ∃ w, s.fetchWord = some w := by
  rw [← length_cutWords] at h
  exact ⟨_, List.getElem?_eq_getElem h⟩

/-- Settles O53: one word of the cut stream after the other. -/
theorem runIsRunOverCutWords : Obligations.RunIsRunOverCutWords := by
  unfold Obligations.RunIsRunOverCutWords
  intro s k h
  induction k generalizing s with
  | zero => rfl
  | succ k ih =>
    obtain ⟨w, hfetch⟩ := exists_fetchWord_of_lt (s := s) (by omega)
    obtain ⟨t, hstep, -, hpos, hstream⟩ := stepWord_completes w s
    have hrest := ih t (by rw [hpos, hstream]; omega)
    rw [hpos, hstream] at hrest
    rw [drop_cutWords_of_fetchWord hfetch, List.take_succ_cons]
    simp only [stepTimes, runWords, step_of_fetchWord hfetch]
    rw [show exec (decodeWord w) (s.present (decodeRecord w)) = .next t from hstep, hstep]
    exact hrest

/-- Words are run to a next state, as far behind the first as there are words. -/
theorem runWords_completes (ws : List Word) (s : State) :
    ∃ t, runWords ws s = .next t ∧ t.pos = s.pos + ws.length ∧ t.stream = s.stream := by
  induction ws generalizing s with
  | nil => exact ⟨s, rfl, rfl, rfl⟩
  | cons w rest ih =>
    obtain ⟨t, hstep, -, hpos, hstream⟩ := stepWord_completes w s
    obtain ⟨u, hrun, hpos', hstream'⟩ := ih t
    refine ⟨u, ?_, ?_, hstream'.trans hstream⟩
    · rw [runWords, hstep]
      exact hrun
    · rw [hpos', hpos, List.length_cons]
      omega

/-- One step more, taken at the end. -/
theorem stepTimes_succ_of_next {k : Nat} {s t : State} (h : stepTimes k s = .next t) :
    stepTimes (k + 1) s = step t := by
  induction k generalizing s with
  | zero =>
    obtain rfl := Host.Outcome.next.inj h
    rw [stepTimes]
    cases step s <;> rfl
  | succ k ih =>
    rw [stepTimes] at h ⊢
    cases hstep : step s with
    | next u => rw [hstep] at h; exact ih h
    | fault | refused => rw [hstep] at h; cases h

/-- Settles O52: the run over the words left ends at the end of the stream, where no word is fetched. -/
theorem runTakesOneStepPerWord : Obligations.RunTakesOneStepPerWord := by
  unfold Obligations.RunTakesOneStepPerWord
  intro s h
  obtain ⟨t, hrun, hpos, hstream⟩ :=
    runWords_completes (((cutWords s.stream).drop s.pos).take (s.stream.length / 4 - s.pos)) s
  rw [← runIsRunOverCutWords s _ (by omega)] at hrun
  have hend : t.pos = s.stream.length / 4 := by
    rw [hpos, List.length_take, List.length_drop, length_cutWords]
    omega
  refine ⟨⟨t, hrun, hend, hstream⟩, ?_⟩
  rw [stepTimes_succ_of_next hrun]
  exact step_of_fetchWord_none ((fetchWord_eq_none_iff t).2 (by rw [State.runOver, hstream, hend]))

/-! ## What a run delivers -/

theorem length_runTriples (ws : List Word) (s : State) : (runTriples ws s).length = ws.length := by
  induction ws generalizing s with
  | nil => rfl
  | cons w rest ih =>
    obtain ⟨t, hstep, -⟩ := stepWord_completes w s
    rw [runTriples, hstep]
    exact congrArg (· + 1) (ih t)

/-- Triple `j` of a run is of word `j`, with the outcome and the snapshot of the state that the words up to it reach. -/
theorem getElem?_runTriples {ws : List Word} (s : State) {j : Nat} {w : Word} (h : ws[j]? = some w) :
    ∃ t, runWords (ws.take (j + 1)) s = .next t ∧
      (runTriples ws s)[j]? = some (decodeRecord w, t.outcome, t.snapshot) ∧ t.outcome.isSome = true := by
  induction ws generalizing s j with
  | nil => simp at h
  | cons w' rest ih =>
    obtain ⟨t, hstep, hsome, -⟩ := stepWord_completes w' s
    simp only [List.take_succ_cons, runWords, runTriples, hstep]
    cases j with
    | zero =>
      obtain rfl : w' = w := Option.some.inj h
      exact ⟨t, rfl, rfl, hsome⟩
    | succ j => exact ih t h

/-- Settles O54: the triples of the words left, with the steps to triple `j` read as the run over those words. -/
theorem runDeliversTriples : Obligations.RunDeliversTriples := by
  unfold Obligations.RunDeliversTriples
  intro s j h
  refine ⟨by rw [length_runTriples, List.length_drop, length_cutWords], ?_⟩
  have hlt : s.pos + j < (cutWords s.stream).length := by rwa [length_cutWords]
  have hword := List.getElem?_eq_getElem hlt
  obtain ⟨t, hrun, htriple, hsome⟩ := getElem?_runTriples s (by rw [List.getElem?_drop]; exact hword)
  rw [← runIsRunOverCutWords s (j + 1) (by omega)] at hrun
  exact ⟨_, t, hword, hrun, htriple, hsome⟩

end Sys2Proof.Machine
end

section
/-! PROOFS. What every decoded instruction is like: well-formed (R71, R78), with the record fields of its format
(R70); the class a word is in. -/

namespace Sys2Proof

open Machine

/-! ## The rotation of an immediate -/

/-- Bit `i` of a rotated word is the bit `n` places above, around the end (R11). -/
theorem getLsbD_ror32 (v : Word) {n i : Nat} (hn : n < 32) (hi : i < 32) :
    (ror32 v n).getLsbD i = v.getLsbD ((i + n) % 32) := by
  have hv : ∀ {k}, 32 ≤ k → v.getLsbD k = false := fun hk => BitVec.getLsbD_of_ge v _ hk
  rw [ror32]
  split
  next hzero => rw [hzero, Nat.add_zero, Nat.mod_eq_of_lt hi]
  next hpos =>
    rw [BitVec.getLsbD_or, BitVec.getLsbD_ushiftRight, BitVec.getLsbD_shiftLeft]
    by_cases hwrap : i + n < 32
    · rw [Nat.mod_eq_of_lt hwrap, Nat.add_comm n i]
      simp [show i < 32 - n by omega]
    · rw [hv (by omega : 32 ≤ n + i), show (i + n) % 32 = i - (32 - n) by omega]
      simp [hi, show ¬ i < 32 - n by omega]

/-- Rotating on to a full turn gives the word back. -/
theorem ror32_ror32_rest (v : Word) {n : Nat} (hn : n < 32) : ror32 (ror32 v n) ((32 - n) % 32) = v := by
  apply BitVec.eq_of_getLsbD_eq
  intro i hi
  rw [getLsbD_ror32 _ (by omega) hi, getLsbD_ror32 _ hn (by omega)]
  congr 1
  omega

/-- Some rotation, its own among them, gives a byte for every resolved immediate (R57). -/
theorem isSome_immediateFields?_rotateImmediate (rotate : BitVec 4) (imm8 : BitVec 8) :
    (immediateFields? (rotateImmediate rotate imm8)).isSome = true := by
  have hmem : ∀ r : BitVec 4, r ∈ rotations := by decide
  have hback : (ror32 (rotateImmediate rotate imm8) ((32 - 2 * rotate.toNat) % 32)).setWidth 8 = imm8 := by
    rw [rotateImmediate, ror32_ror32_rest _ (by omega)]
    exact BitVec.setWidth_setWidth_of_le _ (by decide)
  rw [immediateFields?, List.findSome?_isSome_iff]
  exact ⟨rotate, hmem rotate, by simp [immediateByte?, hback]⟩

/-! ## Well-formedness -/

theorem operand2Field_wellFormed (w : Word) : (operand2Field w).wellFormed = true := by
  rw [operand2Field, shiftAmountField]
  split
  · exact isSome_immediateFields?_rotateImmediate ..
  · split <;> rfl

theorem decodeMove_wellFormed (cond : Cond) (s : Bool) (rn rd : RegNum) {op2 : Operand2}
    (h : op2.wellFormed = true) : (decodeMove cond s rn rd op2).wellFormed = true := by
  cases op2 with
  | imm => exact (Bool.and_true _).trans h
  | reg rm ty amount =>
    rw [decodeMove]
    split
    · cases ty <;> exact h
    next hrn => exact Bool.and_eq_true_iff.2 ⟨h, bne_iff_ne.2 hrn⟩

theorem decodeOpcode_wellFormed (opcode : BitVec 4) (cond : Cond) (s : Bool) (rn rd : RegNum) {op2 : Operand2}
    (h : op2.wellFormed = true) : (decodeOpcode opcode cond s rn rd op2).wellFormed = true := by
  rw [decodeOpcode]
  split_ifs with _ _ hne _ heq
  · exact h
  · exact h
  · exact Bool.and_eq_true_iff.2 ⟨h, bne_iff_ne.2 hne⟩
  · exact h
  · exact Bool.and_eq_true_iff.2 ⟨h, bne_iff_ne.2 heq⟩
  · exact h
  · exact h
  · exact decodeMove_wellFormed cond s rn rd h
  · cases op2 <;> exact h

/-- Settles O14: only data processing can fail a limit, and its operand 2 and the choices of kind meet them. -/
theorem decodeGivesWellFormed : Obligations.DecodeGivesWellFormed := by
  unfold Obligations.DecodeGivesWellFormed
  intro w
  rw [decodeWord_eq]
  split_ifs
  · rfl
  · exact decodeOpcode_wellFormed _ _ _ _ _ (operand2Field_wellFormed w)
  · rw [decodeLoadStore]; split <;> rfl
  · rw [decodeBranch]; split <;> rfl
  · rfl

/-- An instruction's operand 2 meets the limits that the instruction meets. -/
theorem wellFormed_of_operandSet? {i : Instr} {op2 : Operand2} (h : i.wellFormed = true)
    (hset : i.operandSet? = some op2) : op2.wellFormed = true := by
  cases i with
  | mul | ldr | str | b | bl | unknown => cases hset
  | sub | add | mov =>
    obtain rfl := Option.some.inj hset
    exact (Bool.and_eq_true_iff.1 h).1
  | addeq | subne | and | cmp | orr | lsl | lsr | asr | ror | unknownDpImm | unknownDpReg =>
    obtain rfl := Option.some.inj hset
    exact h

/-! ## The fields of a record -/

/-- Outside MUL the operand fields of a record are those of its operand 2, and no offset stands beside them. -/
theorem fields_of_operandSet? {i : Instr} {op2 : Operand2} (hset : i.operandSet? = some op2) :
    i.kind ≠ .mul ∧ i.rd?.isSome = true ∧ i.rn?.isSome = true ∧ i.rm? = op2.rm? ∧ i.rs? = op2.rs? ∧
    i.operand2? = op2.immediate? ∧ i.shiftType? = op2.shiftType? ∧ i.shiftAmount? = op2.shiftAmount? ∧
    i.offset? = none ∧ i.format = op2.format := by
  cases i with
  | mul | ldr | str | b | bl | unknown => cases hset
  | _ =>
    obtain rfl := Option.some.inj hset
    exact ⟨nofun, rfl, rfl, rfl, rfl, rfl, rfl, rfl, rfl, rfl⟩

/-- Settles O12: by the form of operand 2, which well-formedness does not let lack an amount; without operand 2 there is
no shift descriptor, and MUL's `rs` alone. -/
theorem shiftDescriptorsExclusive : Obligations.ShiftDescriptorsExclusive := by
  unfold Obligations.ShiftDescriptorsExclusive
  intro w i
  have hwf : i.wellFormed = true := decodeGivesWellFormed w
  cases hset : i.operandSet? with
  | some op2 =>
    obtain ⟨hkind, -, -, hrm, hrs, hvalue, hty, hamount, -⟩ := fields_of_operandSet? hset
    rw [hrm, hrs, hvalue, hty, hamount]
    match op2 with
    | .imm _ | .reg _ _ (.imm _) | .reg _ _ (.reg _) =>
      simp [hkind, Operand2.rm?, Operand2.rs?, Operand2.immediate?, Operand2.shiftType?, Operand2.shiftAmount?]
    | .reg _ _ .none => cases wellFormed_of_operandSet? hwf hset
  | none =>
    clear_value i
    cases i with
    | mul => exact ⟨nofun, nofun, fun hkind => absurd rfl hkind, fun _ => ⟨rfl, rfl, rfl⟩⟩
    | ldr | str | b | bl | unknown => exact ⟨nofun, nofun, nofun, nofun⟩
    | _ => cases hset

/-- A shift kind's `rn` is 0 and its shift type is its name (R62). -/
theorem rn?_shiftType?_of_shiftKind (i : Instr) :
    (i.kind = .lsl → i.rn? = some 0#4 ∧ i.shiftType? = some .lsl) ∧
    (i.kind = .lsr → i.rn? = some 0#4 ∧ i.shiftType? = some .lsr) ∧
    (i.kind = .asr → i.rn? = some 0#4 ∧ i.shiftType? = some .asr) ∧
    (i.kind = .ror → i.rn? = some 0#4 ∧ i.shiftType? = some .ror) := by
  cases i with
  | lsl => exact ⟨fun _ => ⟨rfl, rfl⟩, nofun, nofun, nofun⟩
  | lsr => exact ⟨nofun, fun _ => ⟨rfl, rfl⟩, nofun, nofun⟩
  | asr => exact ⟨nofun, nofun, fun _ => ⟨rfl, rfl⟩, nofun⟩
  | ror => exact ⟨nofun, nofun, nofun, fun _ => ⟨rfl, rfl⟩⟩
  | _ => exact ⟨nofun, nofun, nofun, nofun⟩

theorem operand2_format_mem (op2 : Operand2) : op2.format ∈ [.dpi, .dpr, .dprs] := by
  match op2 with
  | .imm _ | .reg _ _ (.imm _) | .reg _ _ (.reg _) | .reg _ _ .none => simp [Operand2.format]

/-- The formats without an S-bit answer `set_flags` false (R69, D12). -/
theorem setFlags_of_format {i : Instr} (h : i.format ∈ [.ls, .br, .unk]) : i.setFlags = false := by
  cases hset : i.operandSet? with
  | some op2 =>
    obtain ⟨-, -, -, -, -, -, -, -, -, hformat⟩ := fields_of_operandSet? hset
    have hdp := operand2_format_mem op2
    rw [← hformat] at hdp
    cases hf : i.format <;> simp [hf] at h hdp
  | none =>
    cases i with
    | mul => simp [Instr.format, Instr.operandSet?, Instr.kind] at h
    | ldr | str | b | bl | unknown => rfl
    | _ => cases hset

/-- Settles O11: by operand 2's form where there is one, and by kind where there is none. -/
theorem recordFieldsPresent : Obligations.RecordFieldsPresent := by
  unfold Obligations.RecordFieldsPresent
  intro w r i
  have hwf : i.wellFormed = true := decodeGivesWellFormed w
  obtain ⟨hlsl, hlsr, hasr, hror⟩ := rn?_shiftType?_of_shiftKind i
  refine ⟨rfl, ?_, hlsl, hlsr, hasr, hror, setFlags_of_format⟩
  clear_value i
  cases hset : i.operandSet? with
  | some op2 =>
    obtain ⟨-, hrd, hrn, hrm, hrs, hvalue, hty, hamount, hoffset, hformat⟩ := fields_of_operandSet? hset
    rw [hrd, hrn, hrm, hrs, hvalue, hty, hamount, hoffset, hformat]
    match op2 with
    | .imm _ | .reg _ _ (.imm _) | .reg _ _ (.reg _) => rfl
    | .reg _ _ .none => cases wellFormed_of_operandSet? hwf hset
  | none =>
    cases i with
    | mul | ldr | str | b | bl | unknown => rfl
    | _ => cases hset

/-- The form that bits 25 and 4 choose (R54, R58). -/
theorem operand2Field_format_cases (w : Word) :
    (bits w 25 25 = 1 ∧ (operand2Field w).format = .dpi) ∨
    (bits w 25 25 = 0 ∧ bits w 4 4 = 0 ∧ (operand2Field w).format = .dpr) ∨
    (bits w 25 25 = 0 ∧ bits w 4 4 = 1 ∧ (operand2Field w).format = .dprs) := by
  have h25 : bits w 25 25 < 2 := Nat.mod_lt _ (by decide)
  have h4 : bits w 4 4 < 2 := Nat.mod_lt _ (by decide)
  by_cases himm : bits w 25 25 = 1
  · exact .inl ⟨himm, by rw [operand2Field_of_immediate himm]; rfl⟩
  by_cases hamount : bits w 4 4 = 1
  · refine .inr (.inr ⟨by omega, hamount, ?_⟩)
    rw [operand2Field_of_register himm, shiftAmountField_of_register hamount]
    rfl
  · refine .inr (.inl ⟨by omega, by omega, ?_⟩)
    rw [operand2Field_of_register himm, shiftAmountField_of_immediate hamount]
    rfl

/-! ## The class of a record -/

/-- The five classes of R51, each with what the word then decodes to. -/
theorem decodeWord_cases (w : Word) :
    ((bits w 27 24 = 0 ∧ bits w 7 4 = 9) ∧ decodeWord w = decodeMultiply w) ∨
    (bits w 27 26 = 0 ∧ ¬ (bits w 27 24 = 0 ∧ bits w 7 4 = 9) ∧ decodeWord w = decodeDataProcessing w) ∨
    (bits w 27 26 = 1 ∧ decodeWord w = decodeLoadStore w) ∨
    (bits w 27 25 = 5 ∧ decodeWord w = decodeBranch w) ∨
    (bits w 27 25 ∈ [0b100, 0b110, 0b111] ∧ decodeWord w = .unknown (condField w)) := by
  by_cases hmul : bits w 27 24 = 0 ∧ bits w 7 4 = 9
  · exact .inl ⟨hmul, decodeWord_of_multiply hmul⟩
  by_cases hdp : bits w 27 26 = 0
  · exact .inr (.inl ⟨hdp, hmul, decodeWord_of_dataProcessing hdp hmul⟩)
  by_cases hls : bits w 27 26 = 1
  · exact .inr (.inr (.inl ⟨hls, decodeWord_of_loadStore hls⟩))
  by_cases hbr : bits w 27 25 = 5
  · exact .inr (.inr (.inr (.inl ⟨hbr, decodeWord_of_branch hbr⟩)))
  have hunknown : bits w 27 25 ∈ [0b100, 0b110, 0b111] := by
    have hhigh : bits w 27 26 = bits w 27 25 / 2 % 2 ^ 2 := bits_of_bits rfl 27 26 (by decide)
    have hlt : bits w 27 25 < 2 ^ 3 := Nat.mod_lt _ (by decide)
    simp only [List.mem_cons, List.not_mem_nil, or_false]
    omega
  exact .inr (.inr (.inr (.inr ⟨hunknown, decodeWord_of_unknown hunknown⟩)))

/-- Outside the last class a word's kind is not UNKNOWN (R68). -/
theorem decodeWord_kind_eq_unknown_iff (w : Word) :
    (decodeWord w).kind = .unknown ↔ bits w 27 25 ∈ [0b100, 0b110, 0b111] := by
  refine ⟨fun hkind => ?_, fun h => by rw [decodeWord_of_unknown h]; rfl⟩
  rcases decodeWord_cases w with ⟨-, heq⟩ | ⟨-, -, heq⟩ | ⟨-, heq⟩ | ⟨-, heq⟩ | ⟨h, -⟩
  · rw [heq] at hkind; cases hkind
  · have hset := (decodeDataProcessing_hasFields w).operandSet_eq
    rw [heq] at hkind
    cases hi : decodeDataProcessing w with
    | unknown => rw [hi] at hset; cases hset
    | _ => rw [hi] at hkind; cases hkind
  · rw [heq, decodeLoadStore] at hkind; split at hkind <;> cases hkind
  · rw [heq, decodeBranch] at hkind; split at hkind <;> cases hkind
  · exact h

/-- Settles O10: the last class alone, whose record is the condition. -/
theorem unknownWords : Obligations.UnknownWords := by
  unfold Obligations.UnknownWords
  refine fun w => ⟨decodeWord_kind_eq_unknown_iff w, fun hkind => ?_⟩
  have hdecode := decodeWord_of_unknown ((decodeWord_kind_eq_unknown_iff w).1 hkind)
  rw [decodeRecord, hdecode]
  exact ⟨⟨condField w, rfl, toNat_condField w⟩, rfl, rfl, rfl, rfl, rfl⟩

/-- Settles O1: each word by evaluation. -/
theorem sampleWordsDecode : Obligations.SampleWordsDecode := by
  unfold Obligations.SampleWordsDecode
  decide

end Sys2Proof
end

section
/-! PROOFS. The bits that a format does not examine: the class is read off the format, and every field that is examined
lies outside the format's mask (R72). -/

namespace Sys2Proof

open Machine

/-! ## The class of a format -/

theorem format_decodeDataProcessing (w : Word) : (decodeDataProcessing w).format = (operand2Field w).format := by
  rw [Instr.format, (decodeDataProcessing_hasFields w).operandSet_eq]

theorem format_decodeLoadStore (w : Word) : (decodeLoadStore w).format = .ls := by
  rw [decodeLoadStore]
  split <;> rfl

theorem format_decodeBranch (w : Word) : (decodeBranch w).format = .br := by
  rw [decodeBranch]
  split <;> rfl

/-- The class a word is in, read off its record's format. -/
theorem class_of_format (w : Word) :
    ((decodeWord w).format = .mul → bits w 27 24 = 0 ∧ bits w 7 4 = 9) ∧
    ((decodeWord w).format = .dprs →
      bits w 27 26 = 0 ∧ decodeWord w = decodeDataProcessing w ∧ (operand2Field w).format = .dprs) ∧
    ((decodeWord w).format = .ls → bits w 27 26 = 1) ∧
    ((decodeWord w).format = .unk → bits w 27 25 ∈ [0b100, 0b110, 0b111]) := by
  rcases decodeWord_cases w with ⟨h, heq⟩ | ⟨h, -, heq⟩ | ⟨h, heq⟩ | ⟨-, heq⟩ | ⟨h, heq⟩ <;> rw [heq]
  · exact ⟨fun _ => h, nofun, nofun, nofun⟩
  · have hdp := operand2_format_mem (operand2Field w)
    rw [format_decodeDataProcessing]
    refine ⟨fun hf => ?_, fun hf => ⟨h, rfl, hf⟩, fun hf => ?_, fun hf => ?_⟩ <;> simp [hf] at hdp
  · rw [format_decodeLoadStore]
    exact ⟨nofun, nofun, fun _ => h, nofun⟩
  · rw [format_decodeBranch]
    exact ⟨nofun, nofun, nofun, nofun⟩
  · exact ⟨nofun, nofun, nofun, fun _ => h⟩

theorem bits_of_dprs {w : Word} (h : (operand2Field w).format = .dprs) : bits w 25 25 ≠ 1 ∧ bits w 4 4 = 1 := by
  rcases operand2Field_format_cases w with ⟨-, hform⟩ | ⟨-, -, hform⟩ | ⟨h25, h4, -⟩
  · rw [hform] at h; cases h
  · rw [hform] at h; cases h
  · exact ⟨by omega, h4⟩

/-! ## Flipped bits -/

section Flip

variable {flip mask : Word} (h : flip &&& ~~~mask = 0#32) (w : Word)

include h

/-- A bit outside the mask is not flipped. -/
theorem getLsbD_xor_of_masked {k : Nat} (hmask : mask.getLsbD k = false) : (w ^^^ flip).getLsbD k = w.getLsbD k := by
  have hflip : flip.getLsbD k = false := by
    by_cases hk : k < 32
    · have hbit := congrArg (BitVec.getLsbD · k) h
      simpa only [BitVec.getLsbD_and, BitVec.getLsbD_not, hk, hmask, decide_true, Bool.not_false, Bool.and_true,
        BitVec.getLsbD_zero] using hbit
    · exact BitVec.getLsbD_of_ge _ _ (by omega)
  rw [BitVec.getLsbD_xor, hflip, Bool.xor_false]

/-- A field outside the mask is not changed. -/
theorem extractLsb'_xor_of_masked {lo len : Nat} (hmask : mask.extractLsb' lo len = 0#len) :
    (w ^^^ flip).extractLsb' lo len = w.extractLsb' lo len := by
  apply BitVec.eq_of_getLsbD_eq
  intro k hk
  have hbit : mask.getLsbD (lo + k) = false := by
    have heq := congrArg (BitVec.getLsbD · k) hmask
    simpa [BitVec.getLsbD_extractLsb', hk] using heq
  rw [BitVec.getLsbD_extractLsb', BitVec.getLsbD_extractLsb', getLsbD_xor_of_masked h w hbit]

theorem bits_xor_of_masked (lo len : Nat) (hmask : mask.extractLsb' lo (len + 1) = 0#(len + 1)) :
    bits (w ^^^ flip) (lo + len) lo = bits w (lo + len) lo := by
  rw [← toNat_extractLsb', ← toNat_extractLsb', extractLsb'_xor_of_masked h w hmask]

end Flip

/-- Settles O13: the class and every field that the format examines lie outside the mask. -/
theorem ignoredBitsDoNotMatter : Obligations.IgnoredBitsDoNotMatter := by
  unfold Obligations.IgnoredBitsDoNotMatter
  intro w flip
  obtain ⟨hmul, hdprs, hls, hunk⟩ := class_of_format w
  refine ⟨fun hf h => ?_, fun hf h hnot => ?_, fun hf h => ?_, fun hf h => ?_⟩
  · rw [decodeWord_of_multiply (hmul hf), decodeWord_of_multiply ?_]
    · simp (disch := decide) only [decodeMultiply, condField, bit20, field19to16, field11to8, field3to0,
        extractLsb'_xor_of_masked h, getLsbD_xor_of_masked h]
    · rw [bits_xor_of_masked h w 24 3 (by decide), bits_xor_of_masked h w 4 3 (by decide)]
      exact hmul hf
  · obtain ⟨hclass, hdecode, hform⟩ := hdprs hf
    obtain ⟨hreg, hamount⟩ := bits_of_dprs hform
    have h25 := bits_xor_of_masked h w 25 0 (by decide)
    have h4 := bits_xor_of_masked h w 4 0 (by decide)
    rw [hdecode, decodeWord_of_dataProcessing ((bits_xor_of_masked h w 26 1 (by decide)).trans hclass) hnot,
      decodeDataProcessing, decodeDataProcessing, operand2Field_of_register hreg, shiftAmountField_of_register hamount,
      operand2Field_of_register (h25.trans_ne hreg), shiftAmountField_of_register (h4.trans hamount)]
    simp (disch := decide) only [opcodeField, condField, bit20, field19to16, field15to12, field11to8, field3to0,
      extractLsb'_xor_of_masked h, getLsbD_xor_of_masked h]
  · rw [decodeWord_of_loadStore (hls hf),
      decodeWord_of_loadStore ((bits_xor_of_masked h w 26 1 (by decide)).trans (hls hf)), decodeLoadStore,
      decodeLoadStore, bit20, bit20, getLsbD_xor_of_masked h w (by decide)]
    simp (disch := decide) only [condField, field19to16, field15to12, extractLsb'_xor_of_masked h]
  · rw [decodeWord_of_unknown (hunk hf), decodeWord_of_unknown ?_, condField, condField,
      extractLsb'_xor_of_masked h w (by decide)]
    rw [bits_xor_of_masked h w 25 2 (by decide)]
    exact hunk hf

end Sys2Proof
end

section
/-! PROOFS. The opcode table (R75): its rows exclude each other in its order, which is checked once over the rows, so
that one selected row is the first that fits and the only one selected; and for every word one row is selected and has
the decoder's kind and format. -/

namespace Sys2Proof

open Machine

/-! ## Rows that exclude each other -/

/-- No word that fits `r` is selected by `r'`: the patterns differ on a bit that both masks examine, or what fits `r`
fits an `unless` entry of `r'`. -/
def TableRow.excludes (r r' : TableRow) : Bool :=
  r.pattern &&& r'.mask != r'.pattern &&& r.mask ||
    r'.exceptions.any fun e => e.1 &&& r.mask == e.1 && r.pattern &&& e.1 == e.2

theorem TableRow.not_selected_of_excludes {r r' : TableRow} {w : Word} (h : r.excludes r' = true)
    (hfits : r.fits w = true) : (r'.fits w && r'.admits w) = false := by
  rw [TableRow.fits, beq_iff_eq] at hfits
  rw [TableRow.excludes, Bool.or_eq_true, bne_iff_ne, List.any_eq_true] at h
  rw [Bool.and_eq_false_iff]
  rcases h with hbit | ⟨e, he, hcover⟩
  · refine .inl (beq_false_of_ne fun hfits' => hbit ?_)
    rw [← hfits, ← hfits', BitVec.and_assoc, BitVec.and_assoc, BitVec.and_comm r.mask]
  · rw [Bool.and_eq_true, beq_iff_eq, beq_iff_eq] at hcover
    obtain ⟨hmask, hpattern⟩ := hcover
    refine .inr (List.all_eq_false.2 ⟨e, he, ?_⟩)
    have hexcept : w &&& e.1 = e.2 := by
      rw [← hpattern, ← hfits, BitVec.and_assoc, BitVec.and_comm r.mask, hmask]
    simp [hexcept]

/-- In rows that exclude the later ones, a selected row is the first that fits and the only selected one. -/
theorem firstRow?_selectedRows_of_excludes {rows : List TableRow} (hrows : rows.Pairwise fun r r' => r.excludes r')
    {row : TableRow} {w : Word} (hmem : row ∈ rows) (hfits : row.fits w = true) (hunless : row.admits w = true) :
    firstRow? rows w = some row ∧ selectedRows rows w = [row] := by
  have hsel : (row.fits w && row.admits w) = true := Bool.and_eq_true_iff.2 ⟨hfits, hunless⟩
  induction rows with
  | nil => cases hmem
  | cons r rest ih =>
    obtain ⟨hhead, hrest⟩ := List.pairwise_cons.1 hrows
    rcases List.mem_cons.1 hmem with rfl | hin
    · refine ⟨List.find?_cons_of_pos hfits, ?_⟩
      rw [selectedRows, List.filter_cons, if_pos hsel, List.filter_eq_nil_iff.2]
      exact fun r' hr' => Bool.eq_false_iff.1 (TableRow.not_selected_of_excludes (hhead r' hr') hfits)
    · have hnot : r.fits w ≠ true := fun hr => by
        rw [TableRow.not_selected_of_excludes (hhead row hin) hr] at hsel
        cases hsel
      obtain ⟨hfirst, hselected⟩ := ih hrest hin
      refine ⟨(List.find?_cons_of_neg hnot).trans hfirst, ?_⟩
      rw [selectedRows, List.filter_cons, if_neg (by simp [hnot])]
      exact hselected

theorem opcodeTable_excludes : opcodeTable.Pairwise fun r r' => r.excludes r' := by
  decide

/-! ## Fields under a mask -/

/-- Two parts of a mask are examined one after the other. -/
theorem and_or_eq {w m m' p p' : Word} (h : w &&& m = p) (h' : w &&& m' = p') : w &&& (m ||| m') = p ||| p' := by
  rw [BitVec.and_or_distrib_left, h, h']

/-- A field, examined under the mask of its bits. -/
theorem and_field (w : Word) (lo len : Nat) :
    w &&& (BitVec.allOnes len).setWidth 32 <<< lo = (w.extractLsb' lo len).setWidth 32 <<< lo := by
  apply BitVec.eq_of_getLsbD_eq
  intro k hk
  simp only [BitVec.getLsbD_and, BitVec.getLsbD_shiftLeft, BitVec.getLsbD_setWidth, BitVec.getLsbD_allOnes,
    BitVec.getLsbD_extractLsb', hk]
  by_cases hlo : k < lo
  · simp [hlo]
  · simp [hlo, show lo + (k - lo) = k by omega, show k - lo < 32 by omega, Bool.and_comm]

theorem and_eq_of_bits {w : Word} (lo len : Nat) (v : BitVec (len + 1)) (h : bits w (lo + len) lo = v.toNat) :
    w &&& (BitVec.allOnes (len + 1)).setWidth 32 <<< lo = v.setWidth 32 <<< lo := by
  rw [and_field, (extractLsb'_eq_iff w lo v).2 h]

/-- What a mask holds of a field is read back from the pattern. -/
theorem extractLsb'_of_and_eq {w m p : Word} (h : w &&& m = p) {lo len : Nat}
    (hm : m.extractLsb' lo len = BitVec.allOnes len) : w.extractLsb' lo len = p.extractLsb' lo len := by
  rw [← h, BitVec.extractLsb'_and, hm, BitVec.and_allOnes]

theorem multiplyMask_iff (w : Word) : w &&& 0x0F0000F0#32 = 0x00000090#32 ↔ bits w 27 24 = 0 ∧ bits w 7 4 = 9 := by
  refine ⟨fun h => ⟨?_, ?_⟩, fun ⟨hhigh, hlow⟩ => ?_⟩
  · exact (extractLsb'_eq_iff w 24 0b0000#4).1 (extractLsb'_of_and_eq h (by decide))
  · exact (extractLsb'_eq_iff w 4 0b1001#4).1 (extractLsb'_of_and_eq h (by decide))
  · exact and_or_eq (and_eq_of_bits 24 3 0b0000#4 hhigh) (and_eq_of_bits 4 3 0b1001#4 hlow)

/-! ## Data-processing rows -/

/-- The bits that tell class 2 and a form apart: 27 to 25, and 4 for a register form (R51, R54, R58). -/
def formMask : Format → Word
  | .dpi => 0x0E000000#32
  | _ => 0x0E000010#32

/-- What these bits are in a form. -/
def formPattern : Format → Word
  | .dpi => 0x02000000#32
  | .dprs => 0x00000010#32
  | _ => 0x00000000#32

/-- A data-processing row of the table: the form and the opcode, and `more` of the word (a mask and what it must hold);
a register-shift row below opcode 8 leaves out the multiplies (R53, R75). -/
def dataProcessingRow (kind : Kind) (form : Format) (opcode : BitVec 4) (more : Word × Word)
    (exceptions : List (Word × Word)) : TableRow where
  kind       := kind
  format     := form
  mask       := formMask form ||| 0x01E00000#32 ||| more.1
  pattern    := formPattern form ||| opcode.setWidth 32 <<< 21 ||| more.2
  exceptions := (if form = .dprs ∧ opcode.toNat < 8 then [(0x0F0000F0#32, 0x00000090#32)] else []) ++ exceptions

theorem and_formMask {w : Word} (hclass : bits w 27 26 = 0) :
    w &&& formMask (operand2Field w).format = formPattern (operand2Field w).format := by
  have hhigh := and_eq_of_bits 26 1 0b00#2 hclass
  rcases operand2Field_format_cases w with ⟨h25, hform⟩ | ⟨h25, h4, hform⟩ | ⟨h25, h4, hform⟩ <;> rw [hform]
  · exact and_or_eq hhigh (and_eq_of_bits 25 0 1#1 h25)
  · exact and_or_eq (and_or_eq hhigh (and_eq_of_bits 25 0 0#1 h25)) (and_eq_of_bits 4 0 0#1 h4)
  · exact and_or_eq (and_or_eq hhigh (and_eq_of_bits 25 0 0#1 h25)) (and_eq_of_bits 4 0 1#1 h4)

/-- Some row of the table is selected and has the instruction's kind and format. -/
def SelectsRow (w : Word) (i : Instr) : Prop :=
  ∃ row ∈ opcodeTable, row.fits w = true ∧ row.admits w = true ∧ i.kind = row.kind ∧ i.format = row.format

section Selects

variable {w : Word} (hclass : bits w 27 26 = 0) (hmul : ¬ (bits w 27 24 = 0 ∧ bits w 7 4 = 9))

include hmul in
/-- A word that is no multiply fits no exception of a data-processing row but the row's own. -/
theorem admits_dataProcessingRow (kind : Kind) (form : Format) (opcode : BitVec 4) (more : Word × Word)
    {exceptions : List (Word × Word)} (hexcept : ∀ e ∈ exceptions, w &&& e.1 ≠ e.2) :
    (dataProcessingRow kind form opcode more exceptions).admits w = true := by
  rw [TableRow.admits, List.all_eq_true]
  intro e he
  rw [bne_iff_ne]
  rcases List.mem_append.1 he with hmultiply | hrest
  · split at hmultiply
    · obtain rfl := List.mem_singleton.1 hmultiply
      exact mt (multiplyMask_iff w).1 hmul
    · cases hmultiply
  · exact hexcept e hrest

variable {opcode : BitVec 4} (hop : bits w 24 21 = opcode.toNat) {kind : Kind}
  (hkind : (decodeDataProcessing w).kind = kind)

include hclass hmul hop hkind

/-- A data-processing word selects the row of its kind, form and opcode, with `more` that it holds and exceptions that
it does not fit. -/
theorem selectsRow_of_dataProcessing {more : Word × Word} (hmore : w &&& more.1 = more.2)
    {exceptions : List (Word × Word)} (hexcept : ∀ e ∈ exceptions, w &&& e.1 ≠ e.2)
    (hmem : dataProcessingRow kind (operand2Field w).format opcode more exceptions ∈ opcodeTable) :
    SelectsRow w (decodeDataProcessing w) := by
  obtain rfl := (opcodeField_eq_iff w opcode).2 hop
  have hfits := and_or_eq (and_or_eq (and_formMask hclass) (and_field w 21 4)) hmore
  exact ⟨_, hmem, beq_iff_eq.2 hfits, admits_dataProcessingRow hmul _ _ _ _ hexcept, hkind,
    format_decodeDataProcessing w⟩

theorem selectsRow_of_more {more : Word × Word} (hmore : w &&& more.1 = more.2)
    (hmem : dataProcessingRow kind (operand2Field w).format opcode more [] ∈ opcodeTable) :
    SelectsRow w (decodeDataProcessing w) :=
  selectsRow_of_dataProcessing hclass hmul hop hkind hmore (List.forall_mem_nil _) hmem

theorem selectsRow_of_exception {e : Word × Word} (hexcept : w &&& e.1 ≠ e.2)
    (hmem : dataProcessingRow kind (operand2Field w).format opcode (0#32, 0#32) [e] ∈ opcodeTable) :
    SelectsRow w (decodeDataProcessing w) :=
  selectsRow_of_dataProcessing hclass hmul hop hkind BitVec.and_zero (List.forall_mem_singleton.2 hexcept) hmem

theorem selectsRow_of_plain
    (hmem : dataProcessingRow kind (operand2Field w).format opcode (0#32, 0#32) [] ∈ opcodeTable) :
    SelectsRow w (decodeDataProcessing w) :=
  selectsRow_of_more hclass hmul hop hkind BitVec.and_zero hmem

end Selects

/-! ## The table's data-processing rows, by kind -/

theorem plainRow_mem : ∀ form ∈ [Format.dpi, .dpr, .dprs],
    dataProcessingRow .and form 0b0000#4 (0#32, 0#32) [] ∈ opcodeTable ∧
    dataProcessingRow .cmp form 0b1010#4 (0#32, 0#32) [] ∈ opcodeTable ∧
    dataProcessingRow .orr form 0b1100#4 (0#32, 0#32) [] ∈ opcodeTable := by
  decide

theorem renamedRow_mem : ∀ form ∈ [Format.dpi, .dpr, .dprs],
    dataProcessingRow .addeq form 0b0100#4 (0xF0000000#32, 0x00000000#32) [] ∈ opcodeTable ∧
    dataProcessingRow .add form 0b0100#4 (0#32, 0#32) [(0xF0000000#32, 0x00000000#32)] ∈ opcodeTable ∧
    dataProcessingRow .subne form 0b0010#4 (0xF0000000#32, 0x10000000#32) [] ∈ opcodeTable ∧
    dataProcessingRow .sub form 0b0010#4 (0#32, 0#32) [(0xF0000000#32, 0x10000000#32)] ∈ opcodeTable := by
  decide

theorem moveRow_mem : dataProcessingRow .mov .dpi 0b1101#4 (0#32, 0#32) [] ∈ opcodeTable ∧
    ∀ form ∈ [Format.dpr, .dprs],
      dataProcessingRow .mov form 0b1101#4 (0#32, 0#32) [(0x000F0000#32, 0#32)] ∈ opcodeTable := by
  decide

theorem shiftRow_mem : ∀ form ∈ [Format.dpr, .dprs], ∀ ty : BitVec 2,
    dataProcessingRow
      (if ty.toNat = 0 then .lsl else if ty.toNat = 1 then .lsr else if ty.toNat = 2 then .asr else .ror)
      form 0b1101#4 (0x000F0060#32, 0#32 ||| ty.setWidth 32 <<< 5) [] ∈ opcodeTable := by
  decide

theorem unmappedRow_mem : ∀ form ∈ [Format.dpi, .dpr, .dprs], ∀ opcode : BitVec 4,
    opcode.toNat ∈ [0b0001, 0b0011, 0b0101, 0b0110, 0b0111, 0b1000, 0b1001, 0b1011, 0b1110, 0b1111] →
    dataProcessingRow (if form = .dpi then .unknownDpImm else .unknownDpReg) form opcode (0#32, 0#32) [] ∈
      opcodeTable := by
  decide

/-! ## The row of a data-processing word -/

theorem condMask_iff (w : Word) (cond : Cond) :
    w &&& 0xF0000000#32 = cond.setWidth 32 <<< 28 ↔ bits w 31 28 = cond.toNat := by
  have hread : ∀ cond : Cond, (cond.setWidth 32 <<< 28).extractLsb' 28 4 = cond := by decide
  refine ⟨fun h => ?_, and_eq_of_bits 28 3 cond⟩
  exact (extractLsb'_eq_iff w 28 cond).1 ((extractLsb'_of_and_eq h (by decide)).trans (hread cond))

theorem rnMask_iff (w : Word) : w &&& 0x000F0000#32 = 0#32 ↔ bits w 19 16 = 0 :=
  ⟨fun h => (extractLsb'_eq_iff w 16 0#4).1 (extractLsb'_of_and_eq h (by decide)), and_eq_of_bits 16 3 0#4⟩

section DataProcessing

variable {w : Word} (hclass : bits w 27 26 = 0) (hmul : ¬ (bits w 27 24 = 0 ∧ bits w 7 4 = 9))

include hclass hmul

/-- Opcode 1101 selects a MOV row, or, in a register form with `rn` = 0, its shift type's (R62). -/
theorem selectsRow_move (hop : bits w 24 21 = 0b1101) : SelectsRow w (decodeDataProcessing w) := by
  obtain ⟨-, -, -, -, -, himmKind, hregKind, hshiftKind, -⟩ := dataProcessingKinds w hclass hmul
  rw [decodeWord_of_dataProcessing hclass hmul] at himmKind hregKind hshiftKind
  obtain ⟨himmRow, hregRow⟩ := moveRow_mem
  have hregister (h25 : bits w 25 25 = 0) (hform : (operand2Field w).format ∈ [.dpr, .dprs]) :
      SelectsRow w (decodeDataProcessing w) := by
    by_cases hrn : bits w 19 16 = 0
    · have hmore : w &&& 0x000F0060#32 = 0#32 ||| (w.extractLsb' 5 2).setWidth 32 <<< 5 :=
        and_or_eq (and_eq_of_bits 16 3 0#4 hrn) (and_field w 5 2)
      have hrow := shiftRow_mem _ hform (w.extractLsb' 5 2)
      rw [toNat_extractLsb'] at hrow
      exact selectsRow_of_more hclass hmul (opcode := 0b1101#4) hop (hshiftKind hop h25 hrn) hmore hrow
    · exact selectsRow_of_exception hclass hmul (opcode := 0b1101#4) hop (hregKind hop h25 hrn)
        (mt (rnMask_iff w).1 hrn) (hregRow _ hform)
  rcases operand2Field_format_cases w with ⟨h25, hform⟩ | ⟨h25, -, hform⟩ | ⟨h25, -, hform⟩
  · exact selectsRow_of_plain hclass hmul (opcode := 0b1101#4) hop (himmKind hop h25) (hform ▸ himmRow)
  · exact hregister h25 (by simp [hform])
  · exact hregister h25 (by simp [hform])

/-- SUB and ADD select the row of the name that the condition gives them (R64). -/
theorem selectsRow_renamed (hop : bits w 24 21 = 0b0010 ∨ bits w 24 21 = 0b0100) :
    SelectsRow w (decodeDataProcessing w) := by
  obtain ⟨-, hsub, hadd, -⟩ := dataProcessingKinds w hclass hmul
  rw [decodeWord_of_dataProcessing hclass hmul] at hsub hadd
  obtain ⟨haddeqRow, haddRow, hsubneRow, hsubRow⟩ := renamedRow_mem _ (operand2_format_mem (operand2Field w))
  rcases hop with hop | hop
  · by_cases hcond : bits w 31 28 = 1
    · exact selectsRow_of_more hclass hmul (opcode := 0b0010#4) hop ((hsub hop).trans (if_pos hcond))
        ((condMask_iff w Cond.ne).2 hcond) hsubneRow
    · exact selectsRow_of_exception hclass hmul (opcode := 0b0010#4) hop ((hsub hop).trans (if_neg hcond))
        (mt (condMask_iff w Cond.ne).1 hcond) hsubRow
  · by_cases hcond : bits w 31 28 = 0
    · exact selectsRow_of_more hclass hmul (opcode := 0b0100#4) hop ((hadd hop).trans (if_pos hcond))
        ((condMask_iff w Cond.eq).2 hcond) haddeqRow
    · exact selectsRow_of_exception hclass hmul (opcode := 0b0100#4) hop ((hadd hop).trans (if_neg hcond))
        (mt (condMask_iff w Cond.eq).1 hcond) haddRow

theorem selectsRow_dataProcessing : SelectsRow w (decodeDataProcessing w) := by
  obtain ⟨hand, -, -, hcmp, horr, -, -, -, hunmapped⟩ := dataProcessingKinds w hclass hmul
  rw [decodeWord_of_dataProcessing hclass hmul] at hand hcmp horr hunmapped
  have hform := operand2_format_mem (operand2Field w)
  obtain ⟨handRow, hcmpRow, horrRow⟩ := plainRow_mem _ hform
  have hop : bits w 24 21 = 0b0000 ∨ bits w 24 21 = 0b1010 ∨ bits w 24 21 = 0b1100 ∨
      (bits w 24 21 = 0b0010 ∨ bits w 24 21 = 0b0100) ∨ bits w 24 21 = 0b1101 ∨
      bits w 24 21 ∈ [0b0001, 0b0011, 0b0101, 0b0110, 0b0111, 0b1000, 0b1001, 0b1011, 0b1110, 0b1111] := by
    have hlt : bits w 24 21 < 2 ^ 4 := Nat.mod_lt _ (by decide)
    simp only [List.mem_cons, List.not_mem_nil, or_false]
    omega
  rcases hop with hop | hop | hop | hop | hop | hop
  · exact selectsRow_of_plain hclass hmul (opcode := 0b0000#4) hop (hand hop) handRow
  · obtain ⟨hkind, -⟩ := hcmp hop
    exact selectsRow_of_plain hclass hmul (opcode := 0b1010#4) hop hkind hcmpRow
  · exact selectsRow_of_plain hclass hmul (opcode := 0b1100#4) hop (horr hop) horrRow
  · exact selectsRow_renamed hclass hmul hop
  · exact selectsRow_move hclass hmul hop
  · have hkind : (decodeDataProcessing w).kind =
        if (operand2Field w).format = .dpi then .unknownDpImm else .unknownDpReg := by
      rw [hunmapped hop]
      rcases operand2Field_format_cases w with ⟨h25, hf⟩ | ⟨h25, -, hf⟩ | ⟨h25, -, hf⟩ <;> rw [h25, hf] <;> rfl
    rw [← toNat_opcodeField] at hop
    exact selectsRow_of_plain hclass hmul (toNat_opcodeField w).symm hkind (unmappedRow_mem _ hform _ hop)

end DataProcessing

/-! ## The other classes -/

theorem bits_eq_zero_of_not_getLsbD {w : Word} {k : Nat} (h : ¬ w.getLsbD k = true) : bits w k k = 0 := by
  have hlt : bits w k k < 2 ^ (k - k + 1) := Nat.mod_lt _ (Nat.two_pow_pos _)
  have hne := mt (getLsbD_iff w k).2 h
  rw [Nat.sub_self] at hlt
  omega

theorem selectsRow_loadStore {w : Word} (hclass : bits w 27 26 = 1) : SelectsRow w (decodeLoadStore w) := by
  have hhigh := and_eq_of_bits 26 1 0b01#2 hclass
  rw [decodeLoadStore]
  split
  next hload =>
    have hfits := and_or_eq hhigh (and_eq_of_bits 20 0 1#1 ((bit20_iff w).1 hload))
    exact ⟨⟨.ldr, .ls, 0x0C100000#32, 0x04100000#32, []⟩, by decide, beq_iff_eq.2 hfits, rfl, rfl, rfl⟩
  next hstore =>
    have hfits := and_or_eq hhigh (and_eq_of_bits 20 0 0#1 (bits_eq_zero_of_not_getLsbD hstore))
    exact ⟨⟨.str, .ls, 0x0C100000#32, 0x04000000#32, []⟩, by decide, beq_iff_eq.2 hfits, rfl, rfl, rfl⟩

theorem selectsRow_branch {w : Word} (hclass : bits w 27 25 = 0b101) : SelectsRow w (decodeBranch w) := by
  have hhigh := and_eq_of_bits 25 2 0b101#3 hclass
  rw [decodeBranch]
  split
  next hlink =>
    have hfits := and_or_eq hhigh (and_eq_of_bits 24 0 1#1 ((getLsbD_iff w 24).1 hlink))
    exact ⟨⟨.bl, .br, 0x0F000000#32, 0x0B000000#32, []⟩, by decide, beq_iff_eq.2 hfits, rfl, rfl, rfl⟩
  next hplain =>
    have hfits := and_or_eq hhigh (and_eq_of_bits 24 0 0#1 (bits_eq_zero_of_not_getLsbD hplain))
    exact ⟨⟨.b, .br, 0x0F000000#32, 0x0A000000#32, []⟩, by decide, beq_iff_eq.2 hfits, rfl, rfl, rfl⟩

theorem unknownRow_mem : ∀ high : BitVec 3, high.toNat ∈ [0b100, 0b110, 0b111] →
    (⟨.unknown, .unk, 0x0E000000#32, high.setWidth 32 <<< 25, []⟩ : TableRow) ∈ opcodeTable := by
  decide

theorem selectsRow_unknown {w : Word} (hclass : bits w 27 25 ∈ [0b100, 0b110, 0b111]) :
    SelectsRow w (.unknown (condField w)) :=
  ⟨_, unknownRow_mem (w.extractLsb' 25 3) (toNat_extractLsb' w 25 2 ▸ hclass), beq_iff_eq.2 (and_field w 25 3), rfl,
    rfl, rfl⟩

theorem selectsRow_multiply {w : Word} (hclass : bits w 27 24 = 0 ∧ bits w 7 4 = 9) :
    SelectsRow w (decodeMultiply w) :=
  ⟨⟨.mul, .mul, 0x0F0000F0#32, 0x00000090#32, []⟩, by decide, beq_iff_eq.2 ((multiplyMask_iff w).2 hclass), rfl, rfl,
    rfl⟩

theorem selectsRow_decodeWord (w : Word) : SelectsRow w (decodeWord w) := by
  rcases decodeWord_cases w with ⟨h, heq⟩ | ⟨h, hmul, heq⟩ | ⟨h, heq⟩ | ⟨h, heq⟩ | ⟨h, heq⟩ <;> rw [heq]
  · exact selectsRow_multiply h
  · exact selectsRow_dataProcessing h hmul
  · exact selectsRow_loadStore h
  · exact selectsRow_branch h
  · exact selectsRow_unknown h

/-- Settles O16: the row that the word selects, by class, is the first that fits and the only selected one, since the
rows exclude each other. -/
theorem decoderFollowsOpcodeTable : Obligations.DecoderFollowsOpcodeTable := by
  unfold Obligations.DecoderFollowsOpcodeTable
  intro w
  obtain ⟨row, hmem, hfits, hunless, hkind, hformat⟩ := selectsRow_decodeWord w
  obtain ⟨hfirst, hselected⟩ := firstRow?_selectedRows_of_excludes opcodeTable_excludes hmem hfits hunless
  exact ⟨row, hfirst, hselected, hkind, hformat⟩

end Sys2Proof
end
